-- ==== Sys2Proof/Word.lean ====
section
/-! DEFINITION. The block's two widths: a byte of the buffer and the wire (R7), and a 32-bit register or
bus word (R22). Bit 0 is the least significant (R8). -/

namespace Sys2Proof

/-- A byte of the buffer RAM and of the wire: an unsigned 8-bit value (R7). -/
abbrev Byte := BitVec 8

/-- A 32-bit register, command word or bus word (R22, R71). -/
abbrev Word := BitVec 32

end Sys2Proof
end

