-- ==== Sys2Proof/Config.lean ====
section
/-! DEFINITION. The parameters of the block (R6) and its one free value (R10). The parameters are arguments
of the model: State carries one record of them that no step changes, so a statement about every state is a
statement about every value of the parameters (log entries 1 and 2). -/

namespace Sys2Proof

/-- CRC8_PARAMS, the record P of R120. -/
structure CrcParams where
  poly   : Byte
  init   : Byte
  refin  : Bool
  refout : Bool
  xorout : Byte
deriving DecidableEq, Repr

/-- The parameters of R6. -/
structure Config where
  /-- ADDR_W, the width in bits of SRC, DST, LEN and ERRPOS. -/
  addrW   : Nat
  /-- BUF_SIZE, the number of bytes of the buffer RAM. -/
  bufSize : Nat
  /-- REG_BASE, the host bus address of register offset 0x00. -/
  regBase : Nat
  /-- BUF_BASE, the host bus address of buffer byte 0. -/
  bufBase : Nat
  /-- CRC8_PARAMS, fixed for the life of the block (R121). -/
  crc     : CrcParams
deriving DecidableEq, Repr

/-- The default CRC8_PARAMS of R122. -/
def CrcParams.default : CrcParams :=
  { poly := 0x9B, init := 0xFF, refin := false, refout := false, xorout := 0x00 }

/-- The example configuration of R6 (ADDR_W = 16, BUF_SIZE = 1024, the default CRC8_PARAMS).
DESIGN CHOICE (log entry 2): the two bus bases, which the spec leaves OPEN. Only State.reset rests on it. -/
def Config.example : Config :=
  { addrW := 16, bufSize := 1024, regBase := 0x1000, bufBase := 0x2000, crc := CrcParams.default }

/-- The free value of R10's `Unspecified`: the n-th byte drawn under no law. It has no body, so nothing can
be proved of it (log entry 4). -/
opaque Config.freeByte : Nat → Byte

end Sys2Proof
end

