-- ==== Sys2Proof/Machine/AddressMap.lean ====
section
/-! DEFINITION. The host's address map: the register window and the buffer window (R56). -/

namespace Sys2Proof.Machine

/-- The length of the buffer window on the bus: BUF_SIZE rounded up to a multiple of 4 (R56). -/
def bufWindow (c : Config) : Nat := (c.bufSize + 3) / 4 * 4

/-- Where a bus address falls (R56). -/
inductive Target where
  /-- An offset in the register window. -/
  | reg (off : Nat)
  /-- An address in the buffer window, its padding included. -/
  | buf (a : Nat)
  /-- Neither window (log entry 8). -/
  | outside
deriving DecidableEq, Repr

/-- The address map of R56. -/
def route (c : Config) (addr : Nat) : Target :=
  if c.regBase ≤ addr ∧ addr < c.regBase + 0x100 then .reg (addr - c.regBase)
  else if c.bufBase ≤ addr ∧ addr < c.bufBase + bufWindow c then .buf (addr - c.bufBase)
  else .outside

end Sys2Proof.Machine
end

