-- ==== Sys2Proof/Machine/Crc.lean ====
section
/-! DEFINITION. The checksum function (R120) and its table form (R126). -/

namespace Sys2Proof.Machine

/-- `rev8` of R120: bit i of the result is bit 7-i of b. -/
def rev8 (b : Byte) : Byte :=
  BitVec.ofBoolListBE
    [b.getLsbD 0, b.getLsbD 1, b.getLsbD 2, b.getLsbD 3, b.getLsbD 4, b.getLsbD 5, b.getLsbD 6, b.getLsbD 7]

/-- One pass of the inner loop of R120: shift out bit 7, and subtract poly if it was set. -/
def crcShift (poly c : Byte) : Byte :=
  if c.getLsbD 7 then (c <<< 1) ^^^ poly else c <<< 1

/-- The inner loop of R120, eight passes; also `T[c]` of R126. -/
def crcTable (poly c : Byte) : Byte :=
  crcShift poly (crcShift poly (crcShift poly (crcShift poly
    (crcShift poly (crcShift poly (crcShift poly (crcShift poly c)))))))

/-- One input byte of R120's outer loop. -/
def crcByte (P : CrcParams) (c b : Byte) : Byte :=
  crcTable P.poly (c ^^^ (if P.refin then rev8 b else b))

/-- The register c of R120 after the bytes of a sequence, from a given start, first byte first. -/
def crcRun (P : CrcParams) : Byte → List Byte → Byte
  | c, [] => c
  | c, b :: d => crcRun P (crcByte P c b) d

/-- `crc8(P, d)` of R120. -/
def crc8 (P : CrcParams) (d : List Byte) : Byte :=
  let c := crcRun P P.init d
  (if P.refout then rev8 c else c) ^^^ P.xorout

end Sys2Proof.Machine
end

