-- ==== Sys2Proof/Machine/State.lean ====
section
/-! DEFINITION. The state of the block and its two agents as plain data, the reasons a step can stop, and the
reset state (R44). INVENTORY.md lists every field with its rule. -/

namespace Sys2Proof.Machine

/-- The direction of a bus transaction (R82). -/
inductive Kind where
  | read
  | write
deriving DecidableEq, Repr

/-- The width of a bus transaction. 16 bits is a width the host can drive and R54 calls ill-formed. -/
inductive Width where
  | w8
  | w16
  | w32
deriving DecidableEq, Repr

/-- One bus transaction, the tuple (kind, address, width, data) of R82. The address is a host bus address; the
data of a read is not used. -/
structure BusOp where
  kind  : Kind
  addr  : Nat
  width : Width
  data  : Word
deriving DecidableEq, Repr

/-- One item of a host program (R82, R83). -/
inductive HostOp where
  /-- One bus transaction. -/
  | bus (op : BusOp)
  /-- `wait` of R83: read STATUS again and again until bit 0 of the value read is 0. -/
  | wait
deriving DecidableEq, Repr

/-- Who moves next (R100): an agent, or the reset input (R230). -/
inductive Turn where
  | host
  | engine
  | reset
deriving DecidableEq, Repr

/-- The fields of STATUS that hold state (R24 to R27); the rest read 0 (R28). -/
structure Status where
  busy  : Bool
  done  : Bool
  err   : Bool
  ecode : BitVec 4
deriving DecidableEq, Repr

/-- The machine. Widths narrower than a field's type are kept by the accessors (R9, log entry 9). -/
structure State where
  /-- The parameters (R6); no step changes them. -/
  cfg    : Config
  /-- STATUS (R24 to R28). -/
  status : Status
  /-- CTRL.IRQ_EN (R29). -/
  irqEn  : Bool
  /-- SRC[ADDR_W-1:0] (R30). -/
  src    : Word
  /-- DST[ADDR_W-1:0] (R31). -/
  dst    : Word
  /-- LEN[ADDR_W-1:0] (R32). -/
  len    : Word
  /-- RESULT[7:0] (R33). -/
  result : Byte
  /-- OUTLEN[ADDR_W:0] (R34). -/
  outLen : Word
  /-- ERRPOS[ADDR_W-1:0] (R35). -/
  errPos : Word
  /-- L_WORD, the written command word (R37). -/
  lWord  : Word
  /-- L_OP (R37). -/
  lOp    : BitVec 4
  /-- L_SRC (R37). -/
  lSrc   : Word
  /-- L_DST (R37). -/
  lDst   : Word
  /-- L_LEN (R37). -/
  lLen   : Word
  /-- BUF (R40, R50): the bytes that differ from 0, addresses rising (log entry 3). -/
  buf    : List Host.Cell
  /-- The model's own: how many free bytes have been drawn (log entry 4). -/
  draws  : Nat
  /-- The model's own: the host's operations still to come, in program order (R59, log entry 6). -/
  prog   : List HostOp
  /-- The model's own: who moves next (R100, log entry 5). -/
  turns  : List Turn
  /-- The model's own: what the host's reads returned, newest first (log entry 6). -/
  seen   : List Word
deriving DecidableEq, Repr

/-- Host-protocol faults. An instruction raises none: every error of a command is a value (R202). Each is
raised by the host's access in Machine/Bus.lean, and is SAFE: the model stops where hardware might go on. -/
inductive Fault where
  /-- 93 U4, R54: a register access that is not 32-bit at a multiple of 4. Safe. -/
  | illFormedRegisterAccess (op : BusOp)
  /-- 93 U4, R54: a 16-bit, misaligned or out-of-range BUF access. Safe. -/
  | illFormedBufferAccess (op : BusOp)
  /-- 93 U5, R235: an access to an active window while BUSY. Safe. -/
  | windowHazard (op : BusOp)
  /-- Log entry 8: an access to an address in neither window of R56. Safe. -/
  | outsideWindows (op : BusOp)
deriving DecidableEq, Repr

/-- Refusals. The spec refuses nothing (93 Part 1): every command word has a meaning. -/
inductive Refusal where
  /-- An arm of exec without a meaning; none is left. Safe. -/
  | notModelled (mnemonic : String)
deriving DecidableEq, Repr

/-- Every STATUS field at its reset value (R44). -/
def Status.idle : Status := { busy := false, done := false, err := false, ecode := 0 }

/-- Every register and latch at its reset value (R44), with the parameters, the buffer contents and the draw
counter that the reset finds. The host's side is empty. -/
def State.initial (cfg : Config) (buf : List Host.Cell) (draws : Nat) : State :=
  { cfg := cfg, status := Status.idle, irqEn := false, src := 0, dst := 0, len := 0, result := 0, outLen := 0,
    errPos := 0, lWord := 0, lOp := 0, lSrc := 0, lDst := 0, lLen := 0, buf := buf, draws := draws,
    prog := [], turns := [], seen := [] }

/-- Right after power-on (R232), with the buffer contents power-on happens to leave. -/
def State.powerOn (cfg : Config) (buf : List Host.Cell) : State := State.initial cfg buf 0

/-- The machine right after reset: R44 under the example configuration of R6. DESIGN CHOICE (log entries 2
and 3): the bus bases, and nothing listed in a buffer whose power-on contents the spec leaves open. -/
def State.reset : State := State.powerOn Config.example []

end Sys2Proof.Machine
end

