-- ==== Sys2Proof/Machine/Flags.lean ====
section
/-! DEFINITION. Error codes (R200), the STATUS word (R24 to R28) and the interrupt line (R39). -/

namespace Sys2Proof.Machine

/-- The named errors of R200. Codes 11 to 15 are never produced. -/
inductive ErrCode where
  | illegalOp
  | badLength
  | bounds
  | overlap
  | runTooLong
  | noDelimiter
  | zeroCode
  | overrun
  | interiorZero
  | crcMismatch
deriving DecidableEq, Repr

/-- `code(E)`: the ECODE column of R200. -/
def ErrCode.code : ErrCode → BitVec 4
  | .illegalOp    => 1
  | .badLength    => 2
  | .bounds       => 3
  | .overlap      => 4
  | .runTooLong   => 5
  | .noDelimiter  => 6
  | .zeroCode     => 7
  | .overrun      => 8
  | .interiorZero => 9
  | .crcMismatch  => 10

/-- An error and its position, `E(pos)` of R10. -/
structure Failure where
  code : ErrCode
  pos  : Nat
deriving DecidableEq, Repr

/-- The 32-bit STATUS word: BUSY bit 0, DONE bit 1, ERR bit 2, ECODE bits [11:8], the rest 0 (R24 to R28). -/
def Status.word (t : Status) : Word :=
  (BitVec.ofBool t.busy).setWidth 32 ||| ((BitVec.ofBool t.done).setWidth 32 <<< 1) |||
    ((BitVec.ofBool t.err).setWidth 32 <<< 2) ||| (t.ecode.setWidth 32 <<< 8)

/-- STATUS as an accept leaves it (R101). -/
def Status.accepted : Status := { busy := true, done := false, err := false, ecode := 0 }

/-- STATUS as `complete()` leaves it (R109). -/
def Status.completed : Status := { busy := false, done := true, err := false, ecode := 0 }

/-- STATUS as `raise E` leaves it (R110). -/
def Status.raised (e : ErrCode) : Status := { busy := false, done := true, err := true, ecode := e.code }

/-- STATUS as ACK leaves it: BUSY untouched (R102). -/
def Status.acked (t : Status) : Status := { t with done := false, err := false, ecode := 0 }

/-- The level output irq (R39, R205). -/
def State.irq (s : State) : Bool := s.status.done && s.irqEn

end Sys2Proof.Machine
end

