-- ==== Sys2Proof/Machine/Memory.lean ====
section
/-! DEFINITION. The buffer RAM as a list of cells in one canonical form: addresses strictly rising, and no
cell equal to what an unlisted address reads as. -/

namespace Sys2Proof.Machine

/-- What a byte of BUF that no cell lists reads as. DESIGN CHOICE (log entry 3): the spec leaves power-on
contents open, and a state can list any contents, so only runs from State.reset rest on this 0. -/
def Memory.unlisted : Byte := 0

/-- One byte of BUF. -/
def Memory.read : List Host.Cell → Nat → Byte
  | [], _ => Memory.unlisted
  | (b, v) :: m, a => if b = a then v else Memory.read m a

/-- Put a cell in its place. -/
def Memory.insert (a : Nat) (v : Byte) : List Host.Cell → List Host.Cell
  | [] => [(a, v)]
  | (b, w) :: m =>
    if a < b then (a, v) :: (b, w) :: m
    else if a = b then (a, v) :: m
    else (b, w) :: Memory.insert a v m

/-- Take the cell of an address out. -/
def Memory.erase (a : Nat) : List Host.Cell → List Host.Cell
  | [] => []
  | (b, w) :: m => if a = b then m else (b, w) :: Memory.erase a m

/-- Write one byte, keeping the canonical form. -/
def Memory.write (m : List Host.Cell) (a : Nat) (v : Byte) : List Host.Cell :=
  if v = Memory.unlisted then Memory.erase a m else Memory.insert a v m

/-- `MemRead(a, n)` of R10 on the cells. -/
def Memory.readBytes (m : List Host.Cell) : Nat → Nat → List Byte
  | _, 0 => []
  | a, n + 1 => Memory.read m a :: Memory.readBytes m (a + 1) n

/-- `MemWrite(a, |d|, d)` of R10 on the cells, lowest address first. -/
def Memory.writeBytes : List Host.Cell → Nat → List Byte → List Host.Cell
  | m, _, [] => m
  | m, a, b :: d => Memory.writeBytes (Memory.write m a b) (a + 1) d

/-- Every cell from address lo upwards, strictly rising, none equal to the unlisted byte. -/
def Memory.wfFrom : Nat → List Host.Cell → Bool
  | _, [] => true
  | lo, (a, v) :: m => decide (lo ≤ a) && decide (v ≠ Memory.unlisted) && Memory.wfFrom (a + 1) m

/-- The canonical form. -/
def Memory.wf (m : List Host.Cell) : Bool := Memory.wfFrom 0 m

/-- Every cell below an address: no byte outside BUF is listed (R50). -/
def Memory.below (n : Nat) (m : List Host.Cell) : Bool := m.all fun c => decide (c.1 < n)

end Sys2Proof.Machine
end

