-- ==== Sys2Proof/Syntax.lean ====
section
/-! DEFINITION. The instructions: the six command words of the CMD register (R2, R70). -/

namespace Sys2Proof

/-- The command map of R70, one constructor per row of spec/opcode_table.json. A command word carries no
operand (R71): operands come from SRC, DST and LEN. -/
inductive Instr where
  /-- ACK, word 0x0000_0000 (R102). -/
  | ack
  /-- CRC8, word 0x0000_0001 (R125). -/
  | crc8
  /-- COBS_ENC, word 0x0000_0002 (R145). -/
  | cobsEnc
  /-- COBS_DEC, word 0x0000_0003 (R165). -/
  | cobsDec
  /-- PACKETIZE, word 0x0000_0004 (R181). -/
  | packetize
  /-- DEPACKETIZE, word 0x0000_0005 (R182). -/
  | depacketize
deriving DecidableEq, Repr

end Sys2Proof
end

