-- ==== Sys2Proof/Decode.lean ====
section
/-! DEFINITION. The command word (R70 to R72): the decoder, total on every 32-bit word, and the encoder. -/

namespace Sys2Proof

/-- Why a command word is illegal (R72). -/
inductive DecodeError where
  /-- Bits [31:4] are not 0. -/
  | reservedBits
  /-- Bits [31:4] are 0 and OP is 0x6 to 0xF. -/
  | reservedOp
deriving DecidableEq, Repr

/-- The field RSV, bits [31:4] of a command word (R71). -/
def wordRsv (w : Word) : BitVec 28 := w.extractLsb' 4 28

/-- The field OP, bits [3:0] of a command word (R71). -/
def wordOp (w : Word) : BitVec 4 := w.extractLsb' 0 4

/-- The command map of R70 on the OP field, for a word whose RSV field is 0. -/
def decodeOp (op : BitVec 4) : Except DecodeError Instr :=
  match op.toNat with
  | 0 => .ok .ack
  | 1 => .ok .crc8
  | 2 => .ok .cobsEnc
  | 3 => .ok .cobsDec
  | 4 => .ok .packetize
  | 5 => .ok .depacketize
  | _ => .error .reservedOp

/-- The command map of R70 on the two fields, in the order R104 tests them. -/
def decodeFields (rsv : BitVec 28) (op : BitVec 4) : Except DecodeError Instr :=
  if rsv = 0 then decodeOp op else .error .reservedBits

/-- The decoder: a whole 32-bit command word (R70). -/
def decode (w : Word) : Except DecodeError Instr := decodeFields (wordRsv w) (wordOp w)

/-- The encoder: the word column of R70. -/
def encode : Instr → Word
  | .ack         => 0x00000000
  | .crc8        => 0x00000001
  | .cobsEnc     => 0x00000002
  | .cobsDec     => 0x00000003
  | .packetize   => 0x00000004
  | .depacketize => 0x00000005

/-- The instruction the decoder reads from a word of nbits bits of value w. A command word is one 32-bit
register write (R81): bits above nbits are 0, and a value of more than 32 bits is no command word. -/
def decodeTableWord (nbits w : Nat) : Option Instr :=
  let v := w % 2 ^ nbits
  if v < 2 ^ 32 then
    match decode (BitVec.ofNat 32 v) with
    | .ok i => some i
    | .error _ => none
  else none

end Sys2Proof
end

