-- ==== Sys2Proof/Machine/Operands.lean ====
section
/-! DEFINITION. The operands of a command: the latched copies read as natural numbers (R73), the command they
select (R104) and the windows they span (R105). -/

namespace Sys2Proof.Machine

/-- The range [base, base + len) of buffer addresses, in natural numbers (R105). -/
structure Window where
  base : Nat
  len  : Nat
deriving DecidableEq, Repr

/-- The address after a window's last byte. -/
def Window.top (w : Window) : Nat := w.base + w.len

/-- An address lies in a window. -/
def Window.has (w : Window) (a : Nat) : Bool := w.base ≤ a && a < w.top

/-- Two windows share a byte: the condition of R108. -/
def Window.meets (v w : Window) : Bool :=
  0 < v.len && 0 < w.len && v.base < w.top && w.base < v.top

/-- L_SRC as a natural number. -/
def State.srcN (s : State) : Nat := s.lSrc.toNat

/-- L_DST as a natural number. -/
def State.dstN (s : State) : Nat := s.lDst.toNat

/-- L_LEN as a natural number. -/
def State.lenN (s : State) : Nat := s.lLen.toNat

/-- The latched command (R104): L_WORD[31:4] and L_OP through the command map. -/
def State.latched (s : State) : Except DecodeError Instr := decodeFields (wordRsv s.lWord) s.lOp

/-- The input window column of R105. ACK has no window. -/
def inWindow (i : Instr) (s : State) : Option Window :=
  match i with
  | .ack         => none
  | .crc8        => some { base := s.srcN, len := s.lenN }
  | .cobsEnc     => some { base := s.srcN, len := s.lenN }
  | .cobsDec     => some { base := s.srcN, len := s.lenN }
  | .packetize   => some { base := s.srcN, len := s.lenN }
  | .depacketize => some { base := s.srcN, len := s.lenN + 2 }

/-- The output window column of R105; CRC8 has none. -/
def outWindow (i : Instr) (s : State) : Option Window :=
  match i with
  | .ack         => none
  | .crc8        => none
  | .cobsEnc     => some { base := s.dstN, len := s.lenN + 2 }
  | .cobsDec     => some { base := s.dstN, len := s.lenN - 2 }
  | .packetize   => some { base := s.dstN, len := s.lenN + 2 }
  | .depacketize => some { base := s.dstN, len := s.lenN }

/-- PACKETIZE's checksum slot, the last column of R105, as a window of one byte. -/
def slotWindow (i : Instr) (s : State) : Option Window :=
  match i with
  | .packetize => some { base := s.srcN + s.lenN - 1, len := 1 }
  | .ack | .crc8 | .cobsEnc | .cobsDec | .depacketize => none

end Sys2Proof.Machine
end

