-- ==== Sys2Proof/Machine/Ops.lean ====
section
/-! DEFINITION. The operations every command shares: register fields, engine access to BUF, the free draw,
accept (R101), the checks (R106 to R108), the two ways a command ends (R109, R110), and reset (R230). -/

namespace Sys2Proof.Machine

/-- The low w bits of a value, as a register field holds them (R9). -/
def keepBits (w n : Nat) : Word := BitVec.ofNat 32 (n % 2 ^ w)

/-- `MemRead(a, n)` of R10. -/
def State.memRead (s : State) (a n : Nat) : List Byte := Memory.readBytes s.buf a n

/-- `MemWrite(a, |d|, d)` of R10. -/
def State.memWrite (s : State) (a : Nat) (d : List Byte) : State :=
  { s with buf := Memory.writeBytes s.buf a d }

/-- n free bytes, from the n0-th draw on (log entry 4). -/
def freeBytes : Nat → Nat → List Byte
  | _, 0 => []
  | n0, n + 1 => Config.freeByte n0 :: freeBytes (n0 + 1) n

/-- `Unspecified(a, n)` of R10: one draw per byte (93 U1, U2, U6). -/
def State.unspecified (s : State) (a n : Nat) : State :=
  { s with buf := Memory.writeBytes s.buf a (freeBytes s.draws n), draws := s.draws + n }

/-- `RESULT[7:0] <- c` (R33). -/
def State.setResult (s : State) (c : Byte) : State := { s with result := c }

/-- `OUTLEN <- n`, the field OUTLEN[ADDR_W:0] (R34). -/
def State.setOutLen (s : State) (n : Nat) : State := { s with outLen := keepBits (s.cfg.addrW + 1) n }

/-- `complete()` of R109. -/
def State.complete (s : State) : State := { s with status := Status.completed }

/-- `raise E(pos)` of R110. -/
def State.raise (s : State) (x : Failure) : State :=
  { s with status := Status.raised x.code, errPos := keepBits s.cfg.addrW x.pos }

/-- Accept of a computing or illegal command word (R101). -/
def State.accept (s : State) (w : Word) : State :=
  { s with lWord := w, lOp := wordOp w, lSrc := s.src, lDst := s.dst, lLen := s.len,
           status := Status.accepted, result := 0, outLen := 0, errPos := 0 }

/-- check_len of R106. -/
def checkLen (i : Instr) (s : State) : Option ErrCode :=
  match i with
  | .cobsDec => if s.lenN < 2 then some .badLength else none
  | .packetize | .depacketize => if s.lenN = 0 then some .badLength else none
  | .ack | .crc8 | .cobsEnc => none

/-- A window reaches past the end of BUF (R107); no window, no failure. -/
def pastEnd (s : State) (w : Option Window) : Bool :=
  match w with
  | some v => s.cfg.bufSize < v.top
  | none => false

/-- check_bounds of R107. -/
def checkBounds (i : Instr) (s : State) : Option ErrCode :=
  if pastEnd s (inWindow i s) || pastEnd s (outWindow i s) then some .bounds else none

/-- check_overlap of R108. -/
def checkOverlap (i : Instr) (s : State) : Option ErrCode :=
  match inWindow i s, outWindow i s with
  | some v, some w => if v.meets w then some .overlap else none
  | _, _ => none

/-- The three checks in the order of R111, as the first error they find. -/
def checks (i : Instr) (s : State) : Option ErrCode :=
  match checkLen i s with
  | some e => some e
  | none =>
    match checkBounds i s with
    | some e => some e
    | none => checkOverlap i s

/-- The start of every computing command (R111): the first failed check ends it with position 0 and no other
effect; otherwise its own body runs. -/
def State.checked (s : State) (i : Instr) (body : State → State) : State :=
  match checks i s with
  | some e => s.raise { code := e, pos := 0 }
  | none => body s

/-- The command whose windows are active (R235): the one in flight. An illegal word has no windows, nor has a
command that fails BAD_LENGTH. -/
def State.active (s : State) : Option Instr :=
  if s.status.busy then
    match s.latched with
    | .ok i => if checkLen i s = none then some i else none
    | .error _ => none
  else none

/-- The bytes of a window that BUF has become unspecified (R231, log entry 10). -/
def State.clobber (s : State) (w : Option Window) : State :=
  match w with
  | some v => s.unspecified v.base (min v.len (s.cfg.bufSize - v.base))
  | none => s

/-- What a reset does to BUF (R231): the output window of the command in flight and PACKETIZE's checksum slot
become unspecified. -/
def State.abandon (s : State) : State :=
  match s.active with
  | some i => (s.clobber (outWindow i s)).clobber (slotWindow i s)
  | none => s

/-- The reset event (R230): every register, field and latch at its reset value, BUF as R231 leaves it. The
host's side is outside the block and is kept (log entry 6). -/
def State.applyReset (s : State) : State :=
  { State.initial s.cfg s.abandon.buf s.abandon.draws with prog := s.prog, turns := s.turns, seen := s.seen }

end Sys2Proof.Machine
end

