-- ==== Sys2Proof/Machine/Checksum.lean ====
section
/-! DEFINITION. The checksum engine's command CRC8 (R125). -/

namespace Sys2Proof.Machine

/-- The body of R125 after the checks. -/
def bodyCrc8 (s : State) : State :=
  (s.setResult (crc8 s.cfg.crc (s.memRead s.srcN s.lenN))).complete

/-- The completion of CRC8 (R125). -/
def execCrc8 (s : State) : Host.Outcome State Fault Refusal := .next (s.checked .crc8 bodyCrc8)

end Sys2Proof.Machine
end

