-- ==== Sys2Proof/Machine/Cobs.lean ====
section
/-! DEFINITION. The COBS codec as functions on byte sequences: cobs_encode in the scan form of R141 and the
split form of R140, and cobs_decode (R160). -/

namespace Sys2Proof.Machine

/-- A closed run: its code byte, the run length + 1, and its literals (R140, R141). -/
def cobsBlock (run : List Byte) : List Byte := BitVec.ofNat 8 (run.length + 1) :: run

/-- The loop of R141 from index i on, with the open run: the bytes it appends to `out`. -/
def cobsScan : Nat → List Byte → List Byte → Except Failure (List Byte)
  | _, run, [] => .ok (cobsBlock run)
  | i, run, b :: d =>
    if b = 0 then
      match cobsScan (i + 1) [] d with
      | .ok out => .ok (cobsBlock run ++ out)
      | .error x => .error x
    else if run.length + 1 = 255 then .error { code := .runTooLong, pos := i }
    else cobsScan (i + 1) (run ++ [b]) d

/-- `cobs_encode(d)`, the scan form of R141: the start delimiter, then the blocks. -/
def cobsEncode (d : List Byte) : Except Failure (List Byte) :=
  match cobsScan 0 [] d with
  | .ok out => .ok (0x00 :: out)
  | .error x => .error x

/-- The runs r_0 .. r_z of R140: the sequence cut at each 0x00. -/
def cobsRuns : List Byte → List (List Byte)
  | [] => [[]]
  | b :: d =>
    match cobsRuns d with
    | [] => [[]]
    | r :: rs => if b = 0 then [] :: r :: rs else (b :: r) :: rs

/-- The index in the sequence of the 255th byte of the first run longer than 254 bytes, for runs the first of
which starts at index i (R140). -/
def cobsOverlong : Nat → List (List Byte) → Option Nat
  | _, [] => none
  | i, r :: rs => if 254 < r.length then some (i + 254) else cobsOverlong (i + r.length + 1) rs

/-- `cobs_encode(d)`, the split form of R140. -/
def cobsEncodeSplit (d : List Byte) : Except Failure (List Byte) :=
  match cobsOverlong 0 (cobsRuns d) with
  | some i => .error { code := .runTooLong, pos := i }
  | none => .ok (0x00 :: (cobsRuns d).flatMap cobsBlock)

/-- The two checks R160 makes at a code byte C at index p with `left` bytes after it: ZERO_CODE, then
OVERRUN (`p + C > E` says that fewer than C - 1 bytes are left). -/
def codeCheck (p : Nat) (C : Byte) (left : Nat) : Option Failure :=
  if C = 0 then some { code := .zeroCode, pos := p }
  else if left < C.toNat - 1 then some { code := .overrun, pos := p }
  else none

/-- The loop of R160 from index p on, with k literals of the open block still to come: the bytes it appends to
`out`. At a block's end that is not the buffer's end the reconstructed 0x00 comes before the next code byte's
checks, which is where it stands in `out`. -/
def cobsBlocks : Nat → Nat → List Byte → Except Failure (List Byte)
  | _, _, [] => .ok []
  | p, 0, C :: e =>
    match codeCheck p C e.length with
    | some x => .error x
    | none =>
      match cobsBlocks (p + 1) (C.toNat - 1) e with
      | .ok out => .ok (0x00 :: out)
      | .error x => .error x
  | p, k + 1, b :: e =>
    if b = 0 then .error { code := .interiorZero, pos := p }
    else
      match cobsBlocks (p + 1) k e with
      | .ok out => .ok (b :: out)
      | .error x => .error x

/-- `cobs_decode(e)` of R160. A sequence of fewer than 2 bytes never reaches it (R106); it is BAD_LENGTH (R78,
log entry 13). -/
def cobsDecode : List Byte → Except Failure (List Byte)
  | d :: C :: e =>
    if d ≠ 0 then .error { code := .noDelimiter, pos := 0 }
    else
      match codeCheck 1 C e.length with
      | some x => .error x
      | none => cobsBlocks 2 (C.toNat - 1) e
  | _ => .error { code := .badLength, pos := 0 }

/-- `checksum(m)` of R180: over the message less its last byte. -/
def checksum (P : CrcParams) (m : List Byte) : Byte := crc8 P m.dropLast

/-- `framed(m)` of R180: the head and its checksum in the last byte's place. -/
def framed (P : CrcParams) (m : List Byte) : List Byte := m.dropLast ++ [checksum P m]

/-- `packet(m)` of R180. -/
def packet (P : CrcParams) (m : List Byte) : Except Failure (List Byte) := cobsEncode (framed P m)

end Sys2Proof.Machine
end

