-- ==== Sys2Proof/Machine/Codec.lean ====
section
/-! DEFINITION. The codec's commands COBS_ENC (R145) and COBS_DEC (R165). -/

namespace Sys2Proof.Machine

/-- The end of R145, R165 and R181: the codec's answer for an output window (a, n). A failure makes the whole
window unspecified and raises; a sequence is written there, and n is its length. -/
def State.deliver (s : State) (a n : Nat) (r : Except Failure (List Byte)) : State :=
  match r with
  | .error x => (s.unspecified a n).raise x
  | .ok d => ((s.memWrite a d).setOutLen n).complete

/-- The body of R145 after the checks. -/
def bodyCobsEnc (s : State) : State :=
  s.deliver s.dstN (s.lenN + 2) (cobsEncode (s.memRead s.srcN s.lenN))

/-- The completion of COBS_ENC (R145). -/
def execCobsEnc (s : State) : Host.Outcome State Fault Refusal := .next (s.checked .cobsEnc bodyCobsEnc)

/-- The body of R165 after the checks. -/
def bodyCobsDec (s : State) : State :=
  s.deliver s.dstN (s.lenN - 2) (cobsDecode (s.memRead s.srcN s.lenN))

/-- The completion of COBS_DEC (R165). -/
def execCobsDec (s : State) : Host.Outcome State Fault Refusal := .next (s.checked .cobsDec bodyCobsDec)

end Sys2Proof.Machine
end

