-- ==== Sys2Proof/Machine/Framer.lean ====
section
/-! DEFINITION. The packet framer's commands PACKETIZE (R181) and DEPACKETIZE (R182). -/

namespace Sys2Proof.Machine

/-- The body of R181 after the checks: the checksum into its slot and into RESULT, then the encoding. -/
def bodyPacketize (s : State) : State :=
  let n := s.lenN
  let h := s.memRead s.srcN (n - 1)
  let c := crc8 s.cfg.crc h
  ((s.memWrite (s.srcN + n - 1) [c]).setResult c).deliver s.dstN (n + 2) (cobsEncode (h ++ [c]))

/-- The completion of PACKETIZE (R181). -/
def execPacketize (s : State) : Host.Outcome State Fault Refusal := .next (s.checked .packetize bodyPacketize)

/-- The end of R182 once decoding succeeded: the message is written whatever its checksum, and the checksum of
its head is compared with its last byte. -/
def State.judge (s : State) (r : List Byte) : State :=
  let n := s.lenN
  let c := crc8 s.cfg.crc (r.take (n - 1))
  let t := ((s.memWrite s.dstN r).setOutLen n).setResult c
  if c = r.getD (n - 1) 0 then t.complete else t.raise { code := .crcMismatch, pos := 0 }

/-- The body of R182 after the checks. -/
def bodyDepacketize (s : State) : State :=
  match cobsDecode (s.memRead s.srcN (s.lenN + 2)) with
  | .error x => (s.unspecified s.dstN s.lenN).raise x
  | .ok r => s.judge r

/-- The completion of DEPACKETIZE (R182). -/
def execDepacketize (s : State) : Host.Outcome State Fault Refusal := .next (s.checked .depacketize bodyDepacketize)

end Sys2Proof.Machine
end

