-- ==== Sys2Proof/Machine/Lifecycle.lean ====
section
/-! DEFINITION. The ACK command (R102) and the completion of an illegal command (R104). -/

namespace Sys2Proof.Machine

/-- ACK (R102), the host's write of word 0 to CMD while BUSY = 0: DONE, ERR and ECODE are cleared, and the
engine takes no step for it. -/
def execAck (s : State) : Host.Outcome State Fault Refusal := .next { s with status := s.status.acked }

/-- The illegal command's completion (R104): ILLEGAL_OP(0). -/
def completeIllegal (s : State) : State := s.raise { code := .illegalOp, pos := 0 }

end Sys2Proof.Machine
end

