-- ==== Sys2Proof/Machine/Dispatch.lean ====
section
/-! DEFINITION. The dispatch of the command map (R104, R102): one arm per constructor of Instr. For a computing
command the meaning is its completion, on the latched operands; for ACK it is the host's write itself. -/

namespace Sys2Proof.Machine

def exec (i : Instr) (s : State) : Host.Outcome State Fault Refusal :=
  match i with
  | .ack => Sys2Proof.Machine.execAck s
  | .crc8 => Sys2Proof.Machine.execCrc8 s
  | .cobsEnc => Sys2Proof.Machine.execCobsEnc s
  | .cobsDec => Sys2Proof.Machine.execCobsDec s
  | .packetize => Sys2Proof.Machine.execPacketize s
  | .depacketize => Sys2Proof.Machine.execDepacketize s

end Sys2Proof.Machine
end

