-- ==== Sys2Proof/Machine/Bus.lean ====
section
/-! DEFINITION. The host's side of the block: the register map (R22), the form of an
access (R54), the window hazard (R235), and one host step (R100). -/

namespace Sys2Proof.Machine

/-- The nine registers of R22. -/
inductive Reg where
  | cmd
  | status
  | ctrl
  | src
  | dst
  | len
  | result
  | outLen
  | errPos
deriving DecidableEq, Repr

/-- The offset column of R22. -/
def Reg.offset : Reg → Nat
  | .cmd    => 0x00
  | .status => 0x04
  | .ctrl   => 0x08
  | .src    => 0x0C
  | .dst    => 0x10
  | .len    => 0x14
  | .result => 0x18
  | .outLen => 0x1C
  | .errPos => 0x20

/-- The register at an offset of the window; none at the offsets of R36. -/
def regAt (off : Nat) : Option Reg :=
  match off with
  | 0x00 => some .cmd
  | 0x04 => some .status
  | 0x08 => some .ctrl
  | 0x0C => some .src
  | 0x10 => some .dst
  | 0x14 => some .len
  | 0x18 => some .result
  | 0x1C => some .outLen
  | 0x20 => some .errPos
  | _ => none

/-- What a 32-bit read of a register returns (R23 to R35). -/
def State.readReg (s : State) : Reg → Word
  | .cmd    => 0
  | .status => s.status.word
  | .ctrl   => (BitVec.ofBool s.irqEn).setWidth 32
  | .src    => s.src
  | .dst    => s.dst
  | .len    => s.len
  | .result => s.result.setWidth 32
  | .outLen => s.outLen
  | .errPos => s.errPos

/-- A host write of w to CMD: ignored while BUSY (R103), else ACK (R102) or accept (R101). -/
def State.writeCmd (s : State) (w : Word) : Host.Outcome State Fault Refusal :=
  if s.status.busy then .next s
  else if w = 0 then exec .ack s
  else .next (s.accept w)

/-- A 32-bit write of a register (R23, R28 to R35). -/
def State.writeReg (s : State) (r : Reg) (w : Word) : Host.Outcome State Fault Refusal :=
  match r with
  | .cmd    => s.writeCmd w
  | .ctrl   => .next { s with irqEn := w.getLsbD 0 }
  | .src    => .next { s with src := keepBits s.cfg.addrW w.toNat }
  | .dst    => .next { s with dst := keepBits s.cfg.addrW w.toNat }
  | .len    => .next { s with len := keepBits s.cfg.addrW w.toNat }
  | .status | .result | .outLen | .errPos => .next s

/-- The number of bytes of an access. -/
def Width.bytes : Width → Nat
  | .w8  => 1
  | .w16 => 2
  | .w32 => 4

/-- A well-formed register access (R54). -/
def regAccessOk (w : Width) (off : Nat) : Bool := w == .w32 && off % 4 == 0

/-- A well-formed BUF access (R52, R54). -/
def bufAccessOk (c : Config) (w : Width) (a : Nat) : Bool :=
  match w with
  | .w8  => a < c.bufSize
  | .w16 => false
  | .w32 => a % 4 == 0 && a + 4 ≤ c.bufSize

/-- An access's bytes meet a window; no window, no meeting. -/
def touches (v : Window) (w : Option Window) : Bool :=
  match w with
  | some u => v.meets u
  | none => false

/-- The window hazard of R235. -/
def State.hazard (s : State) (k : Kind) (v : Window) : Bool :=
  match s.active with
  | none => false
  | some i =>
    match k with
    | .write => touches v (inWindow i s) || touches v (outWindow i s)
    | .read  => touches v (outWindow i s) || touches v (slotWindow i s)

/-- The bytes of a little-endian word, lowest address first (R53). -/
def wordBytes (w : Word) : List Byte :=
  [w.extractLsb' 0 8, w.extractLsb' 8 8, w.extractLsb' 16 8, w.extractLsb' 24 8]

/-- The little-endian word of four bytes (R53); shorter sequences are read as if zero bytes followed. -/
def bytesWord : List Byte → Word
  | [] => 0
  | b :: d => b.setWidth 32 ||| (bytesWord d <<< 8)

/-- The bytes an access of BUF writes: the low byte for 8 bits, all four for 32 (R53). -/
def accessBytes (w : Width) (data : Word) : List Byte := (wordBytes data).take w.bytes

/-- What a read returns goes to the host (log entry 6). -/
def State.see (s : State) (w : Word) : State := { s with seen := w :: s.seen }

/-- A host access of the register window (R54, R36, R55). -/
def State.regAccess (s : State) (op : BusOp) (off : Nat) : Host.Outcome State Fault Refusal :=
  if regAccessOk op.width off then
    match op.kind, regAt off with
    | .read, some r => .next (s.see (s.readReg r))
    | .read, none => .next (s.see 0)
    | .write, some r => s.writeReg r op.data
    | .write, none => .next s
  else .fault (.illFormedRegisterAccess op)

/-- A host access of the buffer window (R52 to R54, R235). An 8-bit read gives the byte in the low bits (log
entry 15). -/
def State.bufAccess (s : State) (op : BusOp) (a : Nat) : Host.Outcome State Fault Refusal :=
  if bufAccessOk s.cfg op.width a then
    if s.hazard op.kind { base := a, len := op.width.bytes } then .fault (.windowHazard op)
    else
      match op.kind with
      | .read => .next (s.see (bytesWord (s.memRead a op.width.bytes)))
      | .write => .next (s.memWrite a (accessBytes op.width op.data))
  else .fault (.illFormedBufferAccess op)

/-- One bus transaction (R82). -/
def State.access (s : State) (op : BusOp) : Host.Outcome State Fault Refusal :=
  match route s.cfg op.addr with
  | .reg off => s.regAccess op off
  | .buf a => s.bufAccess op a
  | .outside => .fault (.outsideWindows op)

/-- The host's next operation taken off its program. -/
def State.popOp (s : State) : State := { s with prog := s.prog.tail }

/-- The next turn taken off the list. -/
def State.popTurn (s : State) : State := { s with turns := s.turns.tail }

/-- One pass of the `wait` loop of R83: a STATUS read, and on to the rest of the program once its bit 0 is 0. -/
def State.waitStep (s : State) : State :=
  if (s.readReg .status).getLsbD 0 then s.see (s.readReg .status)
  else (s.see (s.readReg .status)).popOp

/-- One host step (R100). A host whose program is at its end makes no access. -/
def State.hostStep (s : State) : Host.Outcome State Fault Refusal :=
  match s.prog with
  | [] => .next s
  | .bus op :: _ => s.popOp.access op
  | .wait :: _ => .next s.waitStep

/-- The engine's step (R104, R111): the completion of the command in flight, enabled if and only if BUSY = 1. -/
def State.engineStep (s : State) : Host.Outcome State Fault Refusal :=
  if s.status.busy then
    match s.latched with
    | .ok i => exec i s
    | .error _ => .next (completeIllegal s)
  else .next s

/-- The turn of an agent, or of the reset input (R100, R206). -/
def State.takeTurn (s : State) : Turn → Host.Outcome State Fault Refusal
  | .host => s.hostStep
  | .engine => s.engineStep
  | .reset => .next s.applyReset

/-- The next step: the turn that is set next. With none set, the engine moves whenever it is enabled, so that an
enabled engine step is taken (R240), and else the host (log entry 5). -/
def State.advance (s : State) : Host.Outcome State Fault Refusal :=
  match s.turns with
  | t :: _ => s.popTurn.takeTurn t
  | [] => if s.status.busy then s.engineStep else s.hostStep

/-- The bus transaction that issues a command word: a 32-bit write to CMD (R81). -/
def issueOp (c : Config) (w : Word) : BusOp :=
  { kind := .write, addr := c.regBase + Reg.offset .cmd, width := .w32, data := w }

/-- A command word set up so that the next step runs it (log entry 6): ACK as the host's next transaction, any
other word as the command in flight, accepted by R101, with the engine next. -/
def State.stage (s : State) (w : Word) : State :=
  let t : State := { s with status := { s.status with busy := false } }
  if w = 0 then { t with prog := .bus (issueOp s.cfg w) :: s.prog, turns := .host :: s.turns }
  else { t.accept w with turns := .engine :: s.turns }

end Sys2Proof.Machine
end

