-- ==== Sys2Proof/Machine/Step.lean ====
section
/-! DEFINITION. One step of the machine (R100), and where the next command is placed. -/

namespace Sys2Proof.Machine

/-- One step: one enabled step of the host or the engine, or a reset (R100). -/
def step (s : State) : Host.Outcome State Fault Refusal := s.advance

/-- A command word of nbits bits, the bits above them 0, set up to run at the next step (log entry 6). -/
def State.withFetchWord (s : State) (nbits w : Nat) : State := s.stage (BitVec.ofNat 32 (w % 2 ^ nbits))

end Sys2Proof.Machine
end

