-- ==== Sys2Proof/Machine/Notation.lean ====
section
/-! DEFINITION. The host program notation (R82) and its pseudo-instructions (R83), as functions to bus
transactions. -/

namespace Sys2Proof.Machine

/-- `wr NAME, v` of R82. -/
def wr (c : Config) (r : Reg) (v : Word) : HostOp :=
  .bus { kind := .write, addr := c.regBase + r.offset, width := .w32, data := v }

/-- `rd NAME` of R82. -/
def rd (c : Config) (r : Reg) : HostOp :=
  .bus { kind := .read, addr := c.regBase + r.offset, width := .w32, data := 0 }

/-- `wb a, v` of R82. -/
def wb (c : Config) (a : Nat) (v : Byte) : HostOp :=
  .bus { kind := .write, addr := c.bufBase + a, width := .w8, data := v.setWidth 32 }

/-- `rb a` of R82. -/
def rb (c : Config) (a : Nat) : HostOp :=
  .bus { kind := .read, addr := c.bufBase + a, width := .w8, data := 0 }

/-- `ww a, v` of R82. -/
def ww (c : Config) (a : Nat) (v : Word) : HostOp :=
  .bus { kind := .write, addr := c.bufBase + a, width := .w32, data := v }

/-- `rw a` of R82; the name avoids the tactic's. -/
def rWord (c : Config) (a : Nat) : HostOp :=
  .bus { kind := .read, addr := c.bufBase + a, width := .w32, data := 0 }

/-- `fill a, [b0 ... bk]` of R83. -/
def fill (c : Config) : Nat → List Byte → List HostOp
  | _, [] => []
  | a, b :: d => wb c a b :: fill c (a + 1) d

/-- `run OP, s, d, n` of R83. -/
def run (c : Config) (i : Instr) (s d n : Word) : List HostOp :=
  [wr c .src s, wr c .dst d, wr c .len n, wr c .cmd (encode i)]

/-- `dump a, n` of R83. -/
def dump (c : Config) : Nat → Nat → List HostOp
  | _, 0 => []
  | a, n + 1 => rb c a :: dump c (a + 1) n

end Sys2Proof.Machine
end

