-- ==== Sys2Proof/WellFormed.lean ====
section
/-! DEFINITION. What is well formed: instructions, command words and configurations. The form of a host
access (R54), which the step itself checks, is in Machine/Bus.lean. -/

namespace Sys2Proof

/-- An instruction is well formed: always, since a command carries no operand (R71). -/
def Instr.wf : Instr → Bool
  | .ack | .crc8 | .cobsEnc | .cobsDec | .packetize | .depacketize => true

/-- A command word is legal: not one of R72. -/
def wordLegal (w : Word) : Bool := wordRsv w == 0 && (wordOp w).toNat < 6

/-- R123: the constraint on every legal CRC8_PARAMS. -/
def CrcParams.legal (P : CrcParams) : Bool := Machine.crc8 P [0x01, 0x00, 0x02] == 0x35

/-- The ranges of R6, the constraint R123, and the two bus windows apart (log entry 2: DEDUCED from R56,
which maps both windows into one address space). -/
def Config.legal (c : Config) : Bool :=
  (2 ≤ c.addrW && c.addrW ≤ 31) &&
  (1 ≤ c.bufSize && c.bufSize ≤ 2 ^ c.addrW) &&
  (c.regBase % 0x100 == 0 && c.bufBase % 4 == 0) &&
  (c.regBase + 0x100 ≤ c.bufBase || c.bufBase + Machine.bufWindow c ≤ c.regBase) &&
  c.crc.legal

end Sys2Proof
end

