-- ==== Sys2Proof/Safety.lean ====
section
/-! DEFINITION. The terms statements use: the invariant of the state, the state right after an accept, what a
byte range holds or leaves alone, and the wire grammar of R75. -/

namespace Sys2Proof.Machine

/-- The invariant that holds after power-on and that every step keeps: legal parameters, register fields within
their widths, the buffer's canonical form, STATUS in a legal combination, and the latches as an accept left
them. -/
structure State.Inv (s : State) : Prop where
  /-- R6, R123. -/
  cfgLegal   : s.cfg.legal = true
  /-- The canonical form of BUF. -/
  bufWf      : Memory.wf s.buf = true
  /-- R50: no byte outside BUF. -/
  bufBelow   : Memory.below s.cfg.bufSize s.buf = true
  /-- R30. -/
  srcFits    : s.src.toNat < 2 ^ s.cfg.addrW
  /-- R31. -/
  dstFits    : s.dst.toNat < 2 ^ s.cfg.addrW
  /-- R32. -/
  lenFits    : s.len.toNat < 2 ^ s.cfg.addrW
  /-- R34. -/
  outLenFits : s.outLen.toNat < 2 ^ (s.cfg.addrW + 1)
  /-- R35. -/
  errPosFits : s.errPos.toNat < 2 ^ s.cfg.addrW
  /-- R37. -/
  lSrcFits   : s.lSrc.toNat < 2 ^ s.cfg.addrW
  /-- R37. -/
  lDstFits   : s.lDst.toNat < 2 ^ s.cfg.addrW
  /-- R37. -/
  lLenFits   : s.lLen.toNat < 2 ^ s.cfg.addrW
  /-- R37: L_OP is the OP field of L_WORD. -/
  opLatched  : s.lOp = wordOp s.lWord
  /-- R200: codes 11 to 15 are never produced. -/
  ecodeKnown : s.status.ecode.toNat ≤ 10
  /-- R109, R110: ERR goes with a code. -/
  errCode    : s.status.err = true ↔ s.status.ecode ≠ 0
  /-- R110: ERR goes with DONE. -/
  errDone    : s.status.err = true → s.status.done = true
  /-- R101: DONE is 0 while BUSY. -/
  busyDone   : s.status.busy = true → s.status.done = false
  /-- R101, R234: the result registers are 0 while BUSY. -/
  busyClear  : s.status.busy = true → s.result = 0 ∧ s.outLen = 0 ∧ s.errPos = 0
  /-- R102, R104: ACK is never in flight. -/
  busyWord   : s.status.busy = true → s.lWord ≠ 0

/-- A command is in flight (R24, R104). -/
def State.InFlight (s : State) (i : Instr) : Prop := s.status.busy = true ∧ s.latched = .ok i

/-- A command ended without error (R109). -/
def EndedOk (t : State) : Prop := t.status = { busy := false, done := true, err := false, ecode := 0 }

/-- A command ended with an error code (R110). -/
def EndedWith (t : State) (code : BitVec 4) : Prop :=
  t.status = { busy := false, done := true, err := true, ecode := code }

/-- A command ended with an error found by a check (R106 to R108): STATUS and ERRPOS = 0, and no other effect. -/
def EndedByCheck (s t : State) (code : BitVec 4) : Prop :=
  t = { s with status := { busy := false, done := true, err := true, ecode := code }, errPos := 0 }

/-- The bytes of a buffer from an address on are a given sequence. -/
def Holds (m : List Host.Cell) (a : Nat) (d : List Byte) : Prop := Memory.readBytes m a d.length = d

/-- The address lies in none of a command's written windows: its output window and PACKETIZE's slot (R105). -/
def Unwritten (i : Instr) (s : State) (a : Nat) : Prop :=
  (∀ v, outWindow i s = some v → v.has a = false) ∧ (∀ v, slotWindow i s = some v → v.has a = false)

/-- Two buffers agree on a range. -/
def AgreeOn (m m' : List Host.Cell) (a n : Nat) : Prop :=
  ∀ k, k < n → Memory.read m (a + k) = Memory.read m' (a + k)

/-- Two buffers agree outside a range. -/
def AgreeOutside (m m' : List Host.Cell) (a n : Nat) : Prop :=
  ∀ b, b < a ∨ a + n ≤ b → Memory.read m b = Memory.read m' b

/-- Every byte of the range [a, a+n) of t is one of the free bytes drawn since s: the range is unspecified
(R10), and nothing can be proved of its values. -/
def FreeRange (s t : State) (a n : Nat) : Prop :=
  ∀ k, k < n → ∃ j, s.draws ≤ j ∧ j < t.draws ∧ Memory.read t.buf (a + k) = Config.freeByte j

/-- `block+` of R75: blocks of a code byte and its non-zero literals, filling the sequence exactly. -/
inductive BlockSeq : List Byte → Prop
  | last (lits : List Byte) (short : lits.length ≤ 254) (nonzero : ∀ b ∈ lits, b ≠ 0) :
      BlockSeq (BitVec.ofNat 8 (lits.length + 1) :: lits)
  | more (lits rest : List Byte) (short : lits.length ≤ 254) (nonzero : ∀ b ∈ lits, b ≠ 0)
      (tail : BlockSeq rest) : BlockSeq (BitVec.ofNat 8 (lits.length + 1) :: (lits ++ rest))

/-- `encoded` of R75. -/
def Encoded (e : List Byte) : Prop := ∃ b, BlockSeq b ∧ e = 0x00 :: b

/-- Index q of a block sequence, with k literals of the open block still to come, is a literal and no code
byte. -/
def literalIn : Nat → List Byte → Nat → Bool
  | _, [], _ => false
  | 0, _ :: _, 0 => false
  | 0, C :: e, q + 1 => literalIn (C.toNat - 1) e q
  | _ + 1, _ :: _, 0 => true
  | k + 1, _ :: e, q + 1 => literalIn k e q

/-- Index q of a packet is a literal (R12): neither the delimiter nor a code byte. -/
def literalAt (e : List Byte) (q : Nat) : Bool :=
  match e, q with
  | _ :: b, q + 1 => literalIn 0 b q
  | _, _ => false

/-- A run of more than 254 non-zero bytes starts at index a (R142). -/
def LongRunAt (d : List Byte) (a : Nat) : Prop := a + 255 ≤ d.length ∧ ∀ k, k < 255 → d.getD (a + k) 0 ≠ 0

end Sys2Proof.Machine
end

