-- ==== Sys2Proof/Certificates/Slice0/Obligations.lean ====
section
/-! DEFINITION. The statements about the model, for the provers. Each docstring names the rule of spec/ it
formalises, or says what it is derived from. -/

open Sys2Proof Sys2Proof.Machine

/-! ### The command word -/

/-- R70: the decoder reads every instruction's word as that instruction. Derived. -/
def Obligations.EncodeThenDecode : Prop := ∀ i : Instr, i.wf = true → decode (encode i) = .ok i

/-- R70: a word that decodes is that instruction's word, so no two words mean one command. Derived. -/
def Obligations.DecodeThenEncode : Prop := ∀ (w : Word) (i : Instr), decode w = .ok i → encode i = w

/-- R70: the six words of the command map, and the first words past it, written out bit by bit. Derived. -/
def Obligations.CommandMapWords : Prop :=
  decode 0b00000000000000000000000000000000#32 = .ok .ack ∧
  decode 0b00000000000000000000000000000001#32 = .ok .crc8 ∧
  decode 0b00000000000000000000000000000010#32 = .ok .cobsEnc ∧
  decode 0b00000000000000000000000000000011#32 = .ok .cobsDec ∧
  decode 0b00000000000000000000000000000100#32 = .ok .packetize ∧
  decode 0b00000000000000000000000000000101#32 = .ok .depacketize ∧
  decode 0b00000000000000000000000000000110#32 = .error .reservedOp ∧
  decode 0b00000000000000000000000000010000#32 = .error .reservedBits

/-- R72: which words are illegal, that an illegal word is accepted like a computing command, and that its
completion touches no BUF byte and raises ILLEGAL_OP; the word 0x10 is no ACK. -/
def Obligations.IllegalCommandWords : Prop :=
  decode 0x00000010 ≠ .ok .ack ∧
  ∀ w : Word,
    ((∃ x, decode w = .error x) ↔ (w.extractLsb' 4 28 ≠ 0 ∨ 6 ≤ (w.extractLsb' 0 4).toNat)) ∧
    ((∃ x, decode w = .error x) → ∀ s : State, s.status.busy = false →
      ∃ t u, s.access (issueOp s.cfg w) = .next t ∧ t.status.busy = true ∧ t.active = none ∧
        t.engineStep = .next u ∧ u.buf = s.buf ∧ EndedWith u 1 ∧ u.errPos = 0 ∧ u.outLen = 0 ∧ u.result = 0)

/-! ### The step -/

/-- The step runs the decoded command: the engine's turn is exec of the command in flight, the host's write of
word 0 to CMD is exec of ACK, and a reset turn is the reset event (R100, R104, R111). What the step adds is that
the turn, and the host's operation, come off their lists; with no turn set the engine moves when it is enabled
(the model's choice, log entry 5). Derived. -/
def Obligations.StepRunsDecodedCommand : Prop :=
  (∀ (s : State) (i : Instr), (s.turns.head? = some .engine ∨ s.turns = []) → s.InFlight i →
    step s = exec i s.popTurn) ∧
  (∀ s : State, (s.turns.head? = some .host ∨ s.turns = []) → s.status.busy = false →
    s.prog.head? = some (.bus (issueOp s.cfg (encode .ack))) → step s = exec .ack s.popTurn.popOp) ∧
  (∀ s : State, s.turns.head? = some .engine → s.status.busy = false → step s = .next s.popTurn) ∧
  (∀ s : State, s.turns.head? = some .reset → step s = .next s.popTurn.applyReset)

/-- A placed command word is the next thing that runs: ACK as the host's write, any other command as its
completion after the accept of R101 (the model's choice, log entry 6). Derived. -/
def Obligations.FetchedWordRuns : Prop :=
  ∀ s : State,
    step (s.withFetchWord 32 (encode .ack).toNat) = exec .ack { s with status := { s.status with busy := false } } ∧
    ∀ i : Instr, i ≠ .ack → step (s.withFetchWord 32 (encode i).toNat) = exec i (s.accept (encode i))

/-- R214: an idle block whose host makes no access holds all its state until reset. Only the list of turns, the
model's own, moves on. Derived. -/
def Obligations.IdleHoldsState : Prop :=
  ∀ s : State, s.status.busy = false → s.prog = [] → s.turns.head? ≠ some .reset → step s = .next s.popTurn

/-! ### Reset -/

/-- R44: every register, latch and flag after reset and after power-on, the idle engine, and BUF (R40, R231,
R235), which a reset leaves alone outside the written windows of a command in flight. Rests on log entry 10 for
a PACKETIZE or DEPACKETIZE in flight with L_LEN = 0, which has no windows and keeps all of BUF, and on log entry
3 for BUF at power-on, whose contents are an argument. Derived. -/
def Obligations.ResetClearsState : Prop :=
  (∀ s t : State, t = s.applyReset →
    (∀ r, t.readReg r = 0) ∧ t.status = { busy := false, done := false, err := false, ecode := 0 } ∧
    t.irqEn = false ∧ t.lWord = 0 ∧ t.lOp = 0 ∧ t.lSrc = 0 ∧ t.lDst = 0 ∧ t.lLen = 0 ∧ t.irq = false ∧
    t.engineStep = .next t ∧ t.cfg = s.cfg ∧
    ∀ a, (∀ i, s.active = some i → Unwritten i s a) → Memory.read t.buf a = Memory.read s.buf a) ∧
  (∀ (cfg : Config) (buf : List Host.Cell) (t : State), t = State.powerOn cfg buf →
    (∀ r, t.readReg r = 0) ∧ t.status = { busy := false, done := false, err := false, ecode := 0 } ∧
    t.irqEn = false ∧ t.lWord = 0 ∧ t.lOp = 0 ∧ t.lSrc = 0 ∧ t.lDst = 0 ∧ t.lLen = 0 ∧ t.irq = false ∧
    t.engineStep = .next t ∧ t.buf = buf)

/-- R231: a reset during a command abandons it; its output window, as far as BUF reaches, and PACKETIZE's
checksum slot become free, every other byte is kept. Rests on log entry 10 for which windows a failing command
has. Derived. -/
def Obligations.ResetAbandonsCommand : Prop :=
  ∀ (s t : State) (i : Instr), s.Inv → s.active = some i → t = s.applyReset →
    t.status.busy = false ∧ t.status.done = false ∧ t.engineStep = .next t ∧
    (∀ v, outWindow i s = some v → FreeRange s t v.base (min v.len (s.cfg.bufSize - v.base))) ∧
    (∀ v, slotWindow i s = some v → FreeRange s t v.base (min v.len (s.cfg.bufSize - v.base))) ∧
    ∀ a, Unwritten i s a → Memory.read t.buf a = Memory.read s.buf a

/-! ### Registers and the interrupt line -/

/-- R28, with the places R24 to R27 give the fields: every bit of the STATUS word, that writes to STATUS are
ignored and that reading it has no side effect. -/
def Obligations.StatusWordBits : Prop :=
  (∀ (t : Status) (k : Nat), k < 32 →
    t.word.getLsbD k =
      if k = 0 then t.busy else if k = 1 then t.done else if k = 2 then t.err
      else if 8 ≤ k ∧ k < 12 then t.ecode.getLsbD (k - 8) else false) ∧
  (∀ (s : State) (w : Word),
    s.access { kind := .write, addr := s.cfg.regBase + 0x04, width := .w32, data := w } = .next s ∧
    s.access { kind := .read, addr := s.cfg.regBase + 0x04, width := .w32, data := w } =
      .next (s.see s.status.word))

/-- R36: the unmapped offsets read 0 and ignore writes, with no side effect. -/
def Obligations.UnmappedOffsetsInert : Prop :=
  ∀ (s : State) (off : Nat) (w : Word), off % 4 = 0 → 0x24 ≤ off → off ≤ 0xFC →
    s.access { kind := .read, addr := s.cfg.regBase + off, width := .w32, data := w } = .next (s.see 0) ∧
    s.access { kind := .write, addr := s.cfg.regBase + off, width := .w32, data := w } = .next s

/-- R30, and the same for DST and LEN: reset value, what a write keeps (also while BUSY, the latches
untouched), and what a read returns. -/
def Obligations.OperandRegisterAccess : Prop :=
  ∀ (s : State) (w : Word), s.cfg.addrW ≤ 31 →
    (s.applyReset.src = 0 ∧ s.applyReset.dst = 0 ∧ s.applyReset.len = 0) ∧
    (∃ v : Word, v.toNat = w.toNat % 2 ^ s.cfg.addrW ∧
      s.access { kind := .write, addr := s.cfg.regBase + 0x0C, width := .w32, data := w } = .next { s with src := v } ∧
      s.access { kind := .write, addr := s.cfg.regBase + 0x10, width := .w32, data := w } = .next { s with dst := v } ∧
      s.access { kind := .write, addr := s.cfg.regBase + 0x14, width := .w32, data := w } = .next { s with len := v }) ∧
    s.access { kind := .read, addr := s.cfg.regBase + 0x0C, width := .w32, data := w } = .next (s.see s.src) ∧
    s.access { kind := .read, addr := s.cfg.regBase + 0x10, width := .w32, data := w } = .next (s.see s.dst) ∧
    s.access { kind := .read, addr := s.cfg.regBase + 0x14, width := .w32, data := w } = .next (s.see s.len)

/-- R29: CTRL keeps bit 0 and reads the rest as 0; a write takes effect at once, also while BUSY; reset 0. -/
def Obligations.CtrlRegisterAccess : Prop :=
  ∀ (s : State) (w : Word),
    s.applyReset.irqEn = false ∧
    s.access { kind := .write, addr := s.cfg.regBase + 0x08, width := .w32, data := w } =
      .next { s with irqEn := w.getLsbD 0 } ∧
    s.access { kind := .read, addr := s.cfg.regBase + 0x08, width := .w32, data := w } =
      .next (s.see (if s.irqEn then 1 else 0))

/-- R23, R33 to R35: CMD reads 0; RESULT, OUTLEN and ERRPOS read their fields and ignore writes. Derived. -/
def Obligations.ResultRegisterAccess : Prop :=
  ∀ (s : State) (w : Word),
    s.access { kind := .read, addr := s.cfg.regBase + 0x00, width := .w32, data := w } = .next (s.see 0) ∧
    s.access { kind := .read, addr := s.cfg.regBase + 0x18, width := .w32, data := w } =
      .next (s.see (s.result.setWidth 32)) ∧
    s.access { kind := .read, addr := s.cfg.regBase + 0x1C, width := .w32, data := w } = .next (s.see s.outLen) ∧
    s.access { kind := .read, addr := s.cfg.regBase + 0x20, width := .w32, data := w } = .next (s.see s.errPos) ∧
    s.access { kind := .write, addr := s.cfg.regBase + 0x18, width := .w32, data := w } = .next s ∧
    s.access { kind := .write, addr := s.cfg.regBase + 0x1C, width := .w32, data := w } = .next s ∧
    s.access { kind := .write, addr := s.cfg.regBase + 0x20, width := .w32, data := w } = .next s

/-- R205 (with R39): the level of irq; ACK and an accept drop it; clearing IRQ_EN masks it without clearing
DONE; every completion, with or without error, raises it alike. -/
def Obligations.InterruptLine : Prop :=
  ∀ s : State,
    (s.irq = true ↔ s.status.done = true ∧ s.irqEn = true) ∧
    (∀ t, exec .ack s = .next t → t.irq = false) ∧
    (∀ w : Word, w ≠ 0 → s.status.busy = false → ∃ t, s.access (issueOp s.cfg w) = .next t ∧ t.irq = false) ∧
    (∃ t, s.access { kind := .write, addr := s.cfg.regBase + 0x08, width := .w32, data := 0 } = .next t ∧
      t.irq = false ∧ t.status = s.status) ∧
    (∀ (i : Instr) (t : State), i ≠ .ack → exec i s = .next t → t.irq = s.irqEn) ∧
    (completeIllegal s).irq = s.irqEn

/-! ### Host accesses -/

/-- R55: no read changes anything but what the host has seen; a register write other than CMD's has no effect
beyond its field; every access but a CMD write is idempotent. -/
def Obligations.AccessSideEffects : Prop :=
  (∀ (s t : State) (op : BusOp), op.kind = .read → s.access op = .next t → ∃ w, t = s.see w) ∧
  (∀ (s t : State) (op : BusOp) (off : Nat), op.kind = .write → route s.cfg op.addr = .reg off → off ≠ 0x00 →
    s.access op = .next t →
    t = { s with irqEn := t.irqEn, src := t.src, dst := t.dst, len := t.len } ∧
    (off ≠ 0x08 → t.irqEn = s.irqEn) ∧ (off ≠ 0x0C → t.src = s.src) ∧ (off ≠ 0x10 → t.dst = s.dst) ∧
    (off ≠ 0x14 → t.len = s.len)) ∧
  (∀ (s t : State) (op : BusOp), Memory.wf s.buf = true →
    ¬(op.kind = .write ∧ route s.cfg op.addr = .reg 0x00) → s.access op = .next t →
    ∃ u, t.access op = .next u ∧ { u with seen := s.seen } = { t with seen := s.seen })

/-- R53: a 32-bit read returns the four bytes little-endian and a 32-bit write sets them, the low byte at the
lowest address, and no other byte. -/
def Obligations.WordAccessLittleEndian : Prop :=
  ∀ (s : State) (a : Nat) (w : Word), s.cfg.legal = true → Memory.wf s.buf = true → a % 4 = 0 →
    a + 4 ≤ s.cfg.bufSize →
    (s.hazard .read { base := a, len := 4 } = false →
      ∃ v : Word, s.access { kind := .read, addr := s.cfg.bufBase + a, width := .w32, data := w } = .next (s.see v) ∧
        v.toNat = (Memory.read s.buf a).toNat + 2 ^ 8 * (Memory.read s.buf (a + 1)).toNat +
          2 ^ 16 * (Memory.read s.buf (a + 2)).toNat + 2 ^ 24 * (Memory.read s.buf (a + 3)).toNat) ∧
    (s.hazard .write { base := a, len := 4 } = false →
      ∃ t, s.access { kind := .write, addr := s.cfg.bufBase + a, width := .w32, data := w } = .next t ∧
        t = { s with buf := t.buf } ∧
        (∀ k, k < 4 → (Memory.read t.buf (a + k)).toNat = w.toNat / 2 ^ (8 * k) % 2 ^ 8) ∧
        AgreeOutside s.buf t.buf a 4)

/-- R52: an 8-bit read returns the byte, and an 8-bit write sets it and no other byte. That the byte stands in
the low bits of the bus word is the model's choice (log entry 15). Derived. -/
def Obligations.ByteAccess : Prop :=
  ∀ (s : State) (a : Nat) (w : Word), s.cfg.legal = true → Memory.wf s.buf = true → a < s.cfg.bufSize →
    (s.hazard .read { base := a, len := 1 } = false →
      s.access { kind := .read, addr := s.cfg.bufBase + a, width := .w8, data := w } =
        .next (s.see ((Memory.read s.buf a).setWidth 32))) ∧
    (s.hazard .write { base := a, len := 1 } = false →
      ∃ t, s.access { kind := .write, addr := s.cfg.bufBase + a, width := .w8, data := w } = .next t ∧
        t = { s with buf := t.buf } ∧ Memory.read t.buf a = w.setWidth 8 ∧ AgreeOutside s.buf t.buf a 1)

/-- R54: exactly the accesses of either window that it lists are ill-formed, and each is a host-protocol fault. -/
def Obligations.IllFormedAccessesFault : Prop :=
  ∀ (s : State) (op : BusOp), s.cfg.legal = true →
    (∀ off, off < 0x100 → op.addr = s.cfg.regBase + off →
      (s.access op = .fault (.illFormedRegisterAccess op) ↔ op.width = .w8 ∨ op.width = .w16 ∨ off % 4 ≠ 0)) ∧
    (∀ a, a < (s.cfg.bufSize + 3) / 4 * 4 → op.addr = s.cfg.bufBase + a →
      (s.access op = .fault (.illFormedBufferAccess op) ↔
        op.width = .w16 ∨ (op.width = .w32 ∧ a % 4 ≠ 0) ∨ (op.width = .w32 ∧ s.cfg.bufSize < a + 4) ∨
          (op.width = .w8 ∧ s.cfg.bufSize ≤ a)))

/-- R57: every in-range, well-formed host access goes through, but for the window hazard. Derived. -/
def Obligations.InRangeAccessesGoThrough : Prop :=
  ∀ (s : State) (op : BusOp), s.cfg.legal = true →
    (∀ off, off < 0x100 → op.addr = s.cfg.regBase + off → op.width = .w32 → off % 4 = 0 →
      ∃ t, s.access op = .next t) ∧
    (∀ a, op.addr = s.cfg.bufBase + a → bufAccessOk s.cfg op.width a = true → s.status.busy = false →
      ∃ t, s.access op = .next t)

/-- R235: while a command with windows is in flight, a well-formed BUF access faults exactly when it writes a
byte of the input or output window, reads one of the output window, or reads PACKETIZE's checksum slot; an
illegal command, and one that fails BAD_LENGTH, makes no hazard. -/
def Obligations.WindowHazardFaults : Prop :=
  ∀ (s : State) (op : BusOp) (a : Nat), s.cfg.legal = true → s.status.busy = true →
    op.addr = s.cfg.bufBase + a → bufAccessOk s.cfg op.width a = true →
    (∀ i, s.latched = .ok i → checkLen i s = none →
      (s.access op = .fault (.windowHazard op) ↔
        ∃ v k, k < op.width.bytes ∧ v.has (a + k) = true ∧
          ((op.kind = .write ∧ (inWindow i s = some v ∨ outWindow i s = some v)) ∨
            (op.kind = .read ∧ (outWindow i s = some v ∨ slotWindow i s = some v)))) ∧
      (s.access op ≠ .fault (.windowHazard op) → ∃ t, s.access op = .next t)) ∧
    (∀ i, s.latched = .ok i → checkLen i s ≠ none → ∃ t, s.access op = .next t) ∧
    (∀ x, s.latched = .error x → ∃ t, s.access op = .next t)

/-! ### The life of a command -/

/-- R101: the accept of a computing or illegal word, all it changes, and irq falling. -/
def Obligations.AcceptLatchesCommand : Prop :=
  ∀ (s : State) (w : Word), s.status.busy = false → w ≠ 0 →
    ∃ t, s.access (issueOp s.cfg w) = .next t ∧ t.irq = false ∧
      t = { s with lWord := w, lOp := w.extractLsb' 0 4, lSrc := s.src, lDst := s.dst, lLen := s.len,
                   status := { busy := true, done := false, err := false, ecode := 0 },
                   result := 0, outLen := 0, errPos := 0 }

/-- R102: ACK clears DONE, ERR and ECODE and leaves all else; the engine takes no step for it; with DONE = 0
already it changes nothing. -/
def Obligations.AckClearsCompletion : Prop :=
  ∀ s : State,
    exec .ack s = .next { s with status := { s.status with done := false, err := false, ecode := 0 } } ∧
    (s.status.busy = false → s.access (issueOp s.cfg 0) = exec .ack s) ∧
    (∀ t, s.status.busy = false → exec .ack s = .next t → t.engineStep = .next t) ∧
    (s.Inv → s.status.done = false → exec .ack s = .next s)

/-- R103: a CMD write while BUSY is ignored, whatever word it carries. -/
def Obligations.BusyIgnoresCmdWrite : Prop :=
  ∀ (s : State) (w : Word), s.status.busy = true → s.access (issueOp s.cfg w) = .next s

/-- R25, R109, R110, R202: every computing command, and an illegal one, ends in one step that clears BUSY and
sets DONE, with success or exactly one known error, and leaves the block ready for the next command. Derived. -/
def Obligations.CompletionEndsOnce : Prop :=
  ∀ s : State,
    (∀ i : Instr, i ≠ .ack → ∃ t, exec i s = .next t ∧
      (EndedOk t ∨ ∃ e : ErrCode, e ≠ .illegalOp ∧ EndedWith t e.code) ∧
      ∀ w : Word, w ≠ 0 → ∃ u, t.access (issueOp t.cfg w) = .next u ∧ u.status.busy = true ∧ u.lWord = w) ∧
    EndedWith (completeIllegal s) 1

/-- R125: CRC8 ends with the checksum of its input window in RESULT, or with BOUNDS; L_DST is not read. -/
def Obligations.Crc8Completes : Prop :=
  ∀ s : State, ∃ t, exec .crc8 s = .next t ∧
    (if s.cfg.bufSize < s.lSrc.toNat + s.lLen.toNat then EndedByCheck s t 3
     else t = { s with status := { busy := false, done := true, err := false, ecode := 0 },
                       result := crc8 s.cfg.crc (Memory.readBytes s.buf s.lSrc.toNat s.lLen.toNat) }) ∧
    (s.Inv → s.status.busy = true → t.outLen = 0 ∧ t.errPos = 0) ∧
    (∀ d, exec .crc8 { s with lDst := d } = .next { t with lDst := d })

/-- R145: COBS_ENC ends with the encoding in the output window and OUTLEN = L + 2, or with the first of BOUNDS,
OVERLAP and RUN_TOO_LONG; the last leaves the whole output window free. -/
def Obligations.CobsEncCompletes : Prop :=
  ∀ s : State, s.Inv → s.InFlight .cobsEnc → ∃ t, exec .cobsEnc s = .next t ∧
    if s.cfg.bufSize < s.lSrc.toNat + s.lLen.toNat ∨ s.cfg.bufSize < s.lDst.toNat + s.lLen.toNat + 2 then
      EndedByCheck s t 3
    else if 0 < s.lLen.toNat ∧ s.lSrc.toNat < s.lDst.toNat + s.lLen.toNat + 2 ∧
        s.lDst.toNat < s.lSrc.toNat + s.lLen.toNat then EndedByCheck s t 4
    else
      t.result = 0 ∧ AgreeOutside s.buf t.buf s.lDst.toNat (s.lLen.toNat + 2) ∧
      match cobsEncode (Memory.readBytes s.buf s.lSrc.toNat s.lLen.toNat) with
      | .ok r => EndedOk t ∧ t.outLen.toNat = s.lLen.toNat + 2 ∧ t.errPos = 0 ∧
          r.length = s.lLen.toNat + 2 ∧ Holds t.buf s.lDst.toNat r
      | .error x => x.code = .runTooLong ∧ EndedWith t 5 ∧ t.errPos.toNat = x.pos ∧ t.outLen = 0 ∧
          FreeRange s t s.lDst.toNat (s.lLen.toNat + 2)

/-- R165: COBS_DEC ends with the decoding in the output window and OUTLEN = E - 2, or with the first of
BAD_LENGTH, BOUNDS, OVERLAP and the decode failures; the last leave the whole output window free. -/
def Obligations.CobsDecCompletes : Prop :=
  ∀ s : State, s.Inv → s.InFlight .cobsDec → ∃ t, exec .cobsDec s = .next t ∧
    if s.lLen.toNat < 2 then EndedByCheck s t 2
    else if s.cfg.bufSize < s.lSrc.toNat + s.lLen.toNat ∨ s.cfg.bufSize < s.lDst.toNat + (s.lLen.toNat - 2) then
      EndedByCheck s t 3
    else if 2 < s.lLen.toNat ∧ s.lSrc.toNat < s.lDst.toNat + (s.lLen.toNat - 2) ∧
        s.lDst.toNat < s.lSrc.toNat + s.lLen.toNat then EndedByCheck s t 4
    else
      t.result = 0 ∧ AgreeOutside s.buf t.buf s.lDst.toNat (s.lLen.toNat - 2) ∧
      match cobsDecode (Memory.readBytes s.buf s.lSrc.toNat s.lLen.toNat) with
      | .ok r => EndedOk t ∧ t.outLen.toNat = s.lLen.toNat - 2 ∧ t.errPos = 0 ∧
          r.length = s.lLen.toNat - 2 ∧ Holds t.buf s.lDst.toNat r
      | .error x => 6 ≤ x.code.code.toNat ∧ x.code.code.toNat ≤ 9 ∧ EndedWith t x.code.code ∧
          t.errPos.toNat = x.pos ∧ t.outLen = 0 ∧ FreeRange s t s.lDst.toNat (s.lLen.toNat - 2)

/-- R181: PACKETIZE writes the checksum of the message's head into its slot and into RESULT and ends with the
packet in the output window and OUTLEN = n + 2, or with the first of BAD_LENGTH, BOUNDS, OVERLAP and
RUN_TOO_LONG; the first three write nothing, the last leaves the slot written and the output window free. -/
def Obligations.PacketizeCompletes : Prop :=
  ∀ s : State, s.Inv → s.InFlight .packetize → ∃ t, exec .packetize s = .next t ∧
    if s.lLen.toNat = 0 then EndedByCheck s t 2
    else if s.cfg.bufSize < s.lSrc.toNat + s.lLen.toNat ∨ s.cfg.bufSize < s.lDst.toNat + s.lLen.toNat + 2 then
      EndedByCheck s t 3
    else if s.lSrc.toNat < s.lDst.toNat + s.lLen.toNat + 2 ∧ s.lDst.toNat < s.lSrc.toNat + s.lLen.toNat then
      EndedByCheck s t 4
    else
      ∃ (h : List Byte) (c : Byte), h = Memory.readBytes s.buf s.lSrc.toNat (s.lLen.toNat - 1) ∧
      c = crc8 s.cfg.crc h ∧ t.result = c ∧
      Memory.read t.buf (s.lSrc.toNat + s.lLen.toNat - 1) = c ∧
      (∀ a, a ≠ s.lSrc.toNat + s.lLen.toNat - 1 → a < s.lDst.toNat ∨ s.lDst.toNat + s.lLen.toNat + 2 ≤ a →
        Memory.read t.buf a = Memory.read s.buf a) ∧
      match cobsEncode (h ++ [c]) with
      | .ok r => EndedOk t ∧ t.outLen.toNat = s.lLen.toNat + 2 ∧ t.errPos = 0 ∧
          r.length = s.lLen.toNat + 2 ∧ Holds t.buf s.lDst.toNat r
      | .error x => x.code = .runTooLong ∧ EndedWith t 5 ∧ t.errPos.toNat = x.pos ∧ t.outLen = 0 ∧
          FreeRange s t s.lDst.toNat (s.lLen.toNat + 2)

/-- R182: DEPACKETIZE decodes the packet, writes the message whatever its checksum, and ends with success or
CRC_MISMATCH by comparing the recomputed checksum with the last byte; or with the first of BAD_LENGTH, BOUNDS,
OVERLAP and the decode failures, the last leaving the output window free. -/
def Obligations.DepacketizeCompletes : Prop :=
  ∀ s : State, s.Inv → s.InFlight .depacketize → ∃ t, exec .depacketize s = .next t ∧
    if s.lLen.toNat = 0 then EndedByCheck s t 2
    else if s.cfg.bufSize < s.lSrc.toNat + s.lLen.toNat + 2 ∨ s.cfg.bufSize < s.lDst.toNat + s.lLen.toNat then
      EndedByCheck s t 3
    else if s.lSrc.toNat < s.lDst.toNat + s.lLen.toNat ∧ s.lDst.toNat < s.lSrc.toNat + s.lLen.toNat + 2 then
      EndedByCheck s t 4
    else
      AgreeOutside s.buf t.buf s.lDst.toNat s.lLen.toNat ∧
      match cobsDecode (Memory.readBytes s.buf s.lSrc.toNat (s.lLen.toNat + 2)) with
      | .ok r => r.length = s.lLen.toNat ∧ Holds t.buf s.lDst.toNat r ∧ t.outLen.toNat = s.lLen.toNat ∧
          t.result = crc8 s.cfg.crc (r.take (s.lLen.toNat - 1)) ∧ t.errPos = 0 ∧
          (if t.result = r.getD (s.lLen.toNat - 1) 0 then EndedOk t else EndedWith t 10)
      | .error x => 6 ≤ x.code.code.toNat ∧ x.code.code.toNat ≤ 9 ∧ EndedWith t x.code.code ∧
          t.errPos.toNat = x.pos ∧ t.outLen = 0 ∧ t.result = 0 ∧ FreeRange s t s.lDst.toNat s.lLen.toNat

/-- R112: what a completion, an accept and an ACK leave unchanged. -/
def Obligations.CommandFrame : Prop :=
  (∀ (i : Instr) (s t : State), exec i s = .next t →
    t = { s with status := t.status, result := t.result, outLen := t.outLen, errPos := t.errPos, buf := t.buf,
                 draws := t.draws } ∧
    ∀ a, Unwritten i s a → Memory.read t.buf a = Memory.read s.buf a) ∧
  (∀ s t : State, exec .ack s = .next t → t = { s with status := t.status }) ∧
  (∀ s : State, completeIllegal s = { s with status := (completeIllegal s).status, errPos := 0 }) ∧
  (∀ (s : State) (w : Word), ∃ q : Status, s.accept w =
    { s with lWord := w, lOp := w.extractLsb' 0 4, lSrc := s.src, lDst := s.dst, lLen := s.len, status := q,
             result := 0, outLen := 0, errPos := 0 })

/-- The finer frame of the result registers (R33 to R35): ACK writes none of them, CRC8 no OUTLEN and no BUF
byte, COBS_ENC and COBS_DEC no RESULT, and a command that ends well or with a CRC mismatch draws no free byte.
Derived. -/
def Obligations.ResultRegisterFrame : Prop :=
  ∀ s t : State,
    (exec .ack s = .next t → t.result = s.result ∧ t.outLen = s.outLen ∧ t.errPos = s.errPos ∧ t.buf = s.buf ∧
      t.status.busy = s.status.busy) ∧
    (exec .crc8 s = .next t → t.buf = s.buf ∧ t.draws = s.draws ∧ t.outLen = s.outLen) ∧
    (exec .cobsEnc s = .next t ∨ exec .cobsDec s = .next t → t.result = s.result) ∧
    (∀ i : Instr, exec i s = .next t → t.status.err = false ∨ t.status.ecode = 10 → t.draws = s.draws) ∧
    (∀ (i : Instr) (e : ErrCode), checks i s = some e → exec i s = .next t →
      t.buf = s.buf ∧ t.draws = s.draws ∧ t.result = s.result ∧ t.outLen = s.outLen)

/-- R41: the result of a completion is a function of the latched command and operands, the parameters and the
input window's bytes (the result registers being as the accept left them), but for the free draws, which two
runs from the same draw count share. -/
def Obligations.ResultsDependOnlyOnOperands : Prop :=
  ∀ s s' : State, Memory.wf s.buf = true → Memory.wf s'.buf = true → s.status.busy = true →
    s'.status.busy = true → s.cfg = s'.cfg → s.lWord = s'.lWord → s.lOp = s'.lOp → s.lSrc = s'.lSrc →
    s.lDst = s'.lDst → s.lLen = s'.lLen → s.draws = s'.draws → s.result = s'.result → s.outLen = s'.outLen →
    s.errPos = s'.errPos →
    (∀ i v, s.latched = .ok i → inWindow i s = some v → AgreeOn s.buf s'.buf v.base v.len) →
    ∃ t t', s.engineStep = .next t ∧ s'.engineStep = .next t' ∧ t.status = t'.status ∧ t.result = t'.result ∧
      t.outLen = t'.outLen ∧ t.errPos = t'.errPos ∧ t.draws = t'.draws ∧
      ∀ i v, s.latched = .ok i → outWindow i s = some v ∨ slotWindow i s = some v →
        (t.status.err = false ∨ 5 ≤ t.status.ecode.toNat) → AgreeOn t.buf t'.buf v.base v.len

/-- R234: while BUSY, RESULT, OUTLEN and ERRPOS read 0. Derived. -/
def Obligations.BusyResultsReadZero : Prop :=
  ∀ s : State, s.Inv → s.status.busy = true →
    s.access { kind := .read, addr := s.cfg.regBase + 0x18, width := .w32, data := 0 } = .next (s.see 0) ∧
    s.access { kind := .read, addr := s.cfg.regBase + 0x1C, width := .w32, data := 0 } = .next (s.see 0) ∧
    s.access { kind := .read, addr := s.cfg.regBase + 0x20, width := .w32, data := 0 } = .next (s.see 0)

/-- R236: a write of SRC, DST, LEN or CTRL while BUSY does not touch the command in flight: writing before or
after the completion comes to the same; and a CTRL write takes effect on irq at once. -/
def Obligations.OperandWritesWhileBusy : Prop :=
  ∀ (s : State) (r : Reg) (w : Word), s.status.busy = true → r = .src ∨ r = .dst ∨ r = .len ∨ r = .ctrl →
    ∃ s1 t t1, s.writeReg r w = .next s1 ∧ s.engineStep = .next t ∧ s1.engineStep = .next t1 ∧
      t.writeReg r w = .next t1 ∧ (r = .ctrl → s1.irq = (s.status.done && w.getLsbD 0))

/-- R240 and R83: the `wait` loop ends. However often the host polls first, once the engine has its turn the
next poll ends the loop; and with no turns set the engine moves first (the model's choice, log entry 5).
Derived. -/
def Obligations.WaitLoopEnds : Prop :=
  (∀ (n : Nat) (s : State) (rest : List HostOp) (ts : List Turn), s.Inv → s.status.busy = true →
    s.prog = .wait :: rest → s.turns = List.replicate n .host ++ .engine :: .host :: ts →
    ∃ t, Host.Core.run core (n + 2) s = .next t ∧ t.prog = rest ∧ t.turns = ts ∧ t.status.busy = false ∧
      t.status.done = true) ∧
  (∀ (s : State) (rest : List HostOp), s.Inv → s.status.busy = true → s.prog = .wait :: rest → s.turns = [] →
    ∃ t, Host.Core.run core 2 s = .next t ∧ t.prog = rest ∧ t.status.busy = false ∧ t.status.done = true)

/-! ### Invariants of the machine -/

/-- Every step keeps the invariant: legal parameters, fields within their widths, BUF canonical and within
BUF_SIZE (R51), ECODE at most 10 (R200), ERR only with DONE and a code, the result registers 0 while BUSY, and no
ACK in flight (R104). Derived. -/
def Obligations.StepKeepsInvariant : Prop := ∀ s t : State, s.Inv → step s = .next t → t.Inv

/-- The invariant holds after power-on, whatever BUF holds, for every legal parameters (R232), and at the
model's reset state. Derived. -/
def Obligations.PowerOnInvariant : Prop :=
  State.reset.Inv ∧ ∀ (cfg : Config) (buf : List Host.Cell), cfg.legal = true → Memory.wf buf = true →
    Memory.below cfg.bufSize buf = true → (State.powerOn cfg buf).Inv

/-- R121: no step changes the parameters, CRC8_PARAMS among them. Derived. -/
def Obligations.ParametersNeverChange : Prop := ∀ s t : State, step s = .next t → t.cfg = s.cfg

/-! ### The codec -/

/-- R141: the scan form gives the same result as the split form of R140 for every sequence. -/
def Obligations.EncodeFormsAgree : Prop := ∀ d : List Byte, cobsEncode d = cobsEncodeSplit d

/-- R143: an encoding is exactly two bytes longer than its input. -/
def Obligations.EncodeLength : Prop :=
  ∀ d e : List Byte, cobsEncode d = .ok e → e.length = d.length + 2

/-- R144: an encoding starts with 0x00, holds no other zero, and is a well-formed encoding of R75, which the
decoder accepts. -/
def Obligations.EncodeZeroFree : Prop :=
  ∀ d e : List Byte, cobsEncode d = .ok e →
    e.getD 0 1 = 0 ∧ (∀ k, 1 ≤ k → k < e.length → e.getD k 0 ≠ 0) ∧ Encoded e ∧ ∃ d', cobsDecode e = .ok d'

/-- R142: the encoder fails exactly on inputs with more than 254 consecutive non-zero bytes, always with
RUN_TOO_LONG at the 255th byte of the first such run, which needs at least 255 bytes. -/
def Obligations.EncodeRunLimit : Prop :=
  ∀ d : List Byte,
    ((∃ x, cobsEncode d = .error x) ↔ ∃ a, LongRunAt d a) ∧
    ∀ x, cobsEncode d = .error x →
      255 ≤ d.length ∧ x.code = .runTooLong ∧
      ∃ a, x.pos = a + 254 ∧ LongRunAt d a ∧ ∀ a', LongRunAt d a' → a ≤ a'

/-- R163: a decoding is exactly two bytes shorter than its input. -/
def Obligations.DecodeLength : Prop :=
  ∀ e d : List Byte, cobsDecode e = .ok d → d.length + 2 = e.length

/-- R75 and R160: the decoder accepts exactly the encoded buffers of the grammar. Derived. -/
def Obligations.DecodeAcceptsGrammar : Prop :=
  ∀ e : List Byte, (∃ d, cobsDecode e = .ok d) ↔ Encoded e

/-- R76: a block stands for its literals, followed by one 0x00 if another block follows and by nothing if it is
the last; code byte 0xFF is no exception (R77, R162). -/
def Obligations.DecodeBlockMeaning : Prop :=
  ∀ lits : List Byte, lits.length ≤ 254 → (∀ b ∈ lits, b ≠ 0) →
    cobsDecode (0x00 :: BitVec.ofNat 8 (lits.length + 1) :: lits) = .ok lits ∧
    ∀ rest d : List Byte, cobsDecode (0x00 :: rest) = .ok d →
      cobsDecode (0x00 :: BitVec.ofNat 8 (lits.length + 1) :: (lits ++ rest)) = .ok (lits ++ 0x00 :: d)

/-- R161: what a decode failure says of the byte at its position, for a sequence of at least 2 bytes. The
order of the checks is R160's. Derived. -/
def Obligations.DecodeFailurePositions : Prop :=
  ∀ (e : List Byte) (x : Failure), 2 ≤ e.length → cobsDecode e = .error x →
    x.pos < e.length ∧
    ((x.code = .noDelimiter ∧ x.pos = 0 ∧ e.getD 0 0 ≠ 0) ∨
      (e.getD 0 1 = 0 ∧ 1 ≤ x.pos ∧
        ((x.code = .zeroCode ∧ e.getD x.pos 1 = 0) ∨
          (x.code = .overrun ∧ e.length < x.pos + (e.getD x.pos 0).toNat) ∨
          (x.code = .interiorZero ∧ 2 ≤ x.pos ∧ e.getD x.pos 1 = 0))))

/-- R164: decoding inverts encoding on every sequence without an overlong run, and encoding inverts decoding on
every well-formed encoding. -/
def Obligations.CobsInverse : Prop :=
  (∀ d : List Byte, (∀ a, ¬LongRunAt d a) → ∃ e, cobsEncode d = .ok e ∧ cobsDecode e = .ok d) ∧
  (∀ e d : List Byte, cobsDecode e = .ok d → cobsEncode d = .ok e)

/-! ### The checksum and the packet -/

/-- R126: the table form of the checksum without reflection, and the table of the default polynomial. -/
def Obligations.CrcTableForm : Prop :=
  (∀ (P : CrcParams) (d : List Byte), P.refin = false → P.refout = false →
    crc8 P d = d.foldl (fun c b => crcTable P.poly (c ^^^ b)) P.init ^^^ P.xorout) ∧
  (List.range 256).map (fun n => (crcTable 0x9B (BitVec.ofNat 8 n)).toNat) =
    [0x00, 0x9B, 0xAD, 0x36, 0xC1, 0x5A, 0x6C, 0xF7, 0x19, 0x82, 0xB4, 0x2F, 0xD8, 0x43, 0x75, 0xEE] ++
    [0x32, 0xA9, 0x9F, 0x04, 0xF3, 0x68, 0x5E, 0xC5, 0x2B, 0xB0, 0x86, 0x1D, 0xEA, 0x71, 0x47, 0xDC] ++
    [0x64, 0xFF, 0xC9, 0x52, 0xA5, 0x3E, 0x08, 0x93, 0x7D, 0xE6, 0xD0, 0x4B, 0xBC, 0x27, 0x11, 0x8A] ++
    [0x56, 0xCD, 0xFB, 0x60, 0x97, 0x0C, 0x3A, 0xA1, 0x4F, 0xD4, 0xE2, 0x79, 0x8E, 0x15, 0x23, 0xB8] ++
    [0xC8, 0x53, 0x65, 0xFE, 0x09, 0x92, 0xA4, 0x3F, 0xD1, 0x4A, 0x7C, 0xE7, 0x10, 0x8B, 0xBD, 0x26] ++
    [0xFA, 0x61, 0x57, 0xCC, 0x3B, 0xA0, 0x96, 0x0D, 0xE3, 0x78, 0x4E, 0xD5, 0x22, 0xB9, 0x8F, 0x14] ++
    [0xAC, 0x37, 0x01, 0x9A, 0x6D, 0xF6, 0xC0, 0x5B, 0xB5, 0x2E, 0x18, 0x83, 0x74, 0xEF, 0xD9, 0x42] ++
    [0x9E, 0x05, 0x33, 0xA8, 0x5F, 0xC4, 0xF2, 0x69, 0x87, 0x1C, 0x2A, 0xB1, 0x46, 0xDD, 0xEB, 0x70] ++
    [0x0B, 0x90, 0xA6, 0x3D, 0xCA, 0x51, 0x67, 0xFC, 0x12, 0x89, 0xBF, 0x24, 0xD3, 0x48, 0x7E, 0xE5] ++
    [0x39, 0xA2, 0x94, 0x0F, 0xF8, 0x63, 0x55, 0xCE, 0x20, 0xBB, 0x8D, 0x16, 0xE1, 0x7A, 0x4C, 0xD7] ++
    [0x6F, 0xF4, 0xC2, 0x59, 0xAE, 0x35, 0x03, 0x98, 0x76, 0xED, 0xDB, 0x40, 0xB7, 0x2C, 0x1A, 0x81] ++
    [0x5D, 0xC6, 0xF0, 0x6B, 0x9C, 0x07, 0x31, 0xAA, 0x44, 0xDF, 0xE9, 0x72, 0x85, 0x1E, 0x28, 0xB3] ++
    [0xC3, 0x58, 0x6E, 0xF5, 0x02, 0x99, 0xAF, 0x34, 0xDA, 0x41, 0x77, 0xEC, 0x1B, 0x80, 0xB6, 0x2D] ++
    [0xF1, 0x6A, 0x5C, 0xC7, 0x30, 0xAB, 0x9D, 0x06, 0xE8, 0x73, 0x45, 0xDE, 0x29, 0xB2, 0x84, 0x1F] ++
    [0xA7, 0x3C, 0x0A, 0x91, 0x66, 0xFD, 0xCB, 0x50, 0xBE, 0x25, 0x13, 0x88, 0x7F, 0xE4, 0xD2, 0x49] ++
    [0x95, 0x0E, 0x38, 0xA3, 0x54, 0xCF, 0xF9, 0x62, 0x8C, 0x17, 0x21, 0xBA, 0x4D, 0xD6, 0xE0, 0x7B]

/-- R127: without reflection and final xor, a sequence followed by its checksum has checksum 0x00; and, for
legal parameters (R123), a last byte matches the checksum of the bytes before it exactly when the checksum of
all of them is 0x00. -/
def Obligations.CrcZeroResidue : Prop :=
  ∀ P : CrcParams, P.refin = false → P.refout = false → P.xorout = 0 →
    (∀ m : List Byte, crc8 P (m ++ [crc8 P m]) = 0) ∧
    (P.legal = true → ∀ (m : List Byte) (b : Byte), crc8 P m = b ↔ crc8 P (m ++ [b]) = 0)

/-- R128: with bit 0 of poly set and refin = refout, sequences of equal length that differ in exactly one byte
have different checksums. -/
def Obligations.CrcSingleByteDetection : Prop :=
  ∀ P : CrcParams, P.poly.getLsbD 0 = true → P.refin = P.refout →
    ∀ (pre post : List Byte) (a b : Byte), a ≠ b → crc8 P (pre ++ a :: post) ≠ crc8 P (pre ++ b :: post)

/-- R180: a packet starts with exactly one 0x00, is two bytes longer than the message, and does not depend on
the message's last byte. -/
def Obligations.PacketShape : Prop :=
  ∀ (P : CrcParams) (h : List Byte) (b : Byte),
    packet P (h ++ [b]) = cobsEncode (h ++ [crc8 P h]) ∧
    ∀ e, packet P (h ++ [b]) = .ok e → e.length = h.length + 1 + 2 ∧ e.getD 0 1 = 0 ∧ e.count 0 = 1

/-- R183: a PACKETIZE, then a DEPACKETIZE of its packet with the same msg_len, in bounds and disjoint, ends
with the framed message in the output window, without error, and with its checksum in RESULT. -/
def Obligations.PacketRoundTrip : Prop :=
  ∀ (s : State) (m : List Byte), s.Inv → s.InFlight .packetize →
    m = Memory.readBytes s.buf s.lSrc.toNat s.lLen.toNat → checks .packetize s = none →
    (m.length ≤ 254 → ∀ a, ¬LongRunAt (framed s.cfg.crc m) a) ∧
    ((∀ a, ¬LongRunAt (framed s.cfg.crc m) a) →
      ∃ t, exec .packetize s = .next t ∧ t.status.err = false ∧
        ∀ u : State, u.Inv → u.InFlight .depacketize → u.cfg = s.cfg → u.buf = t.buf → u.lSrc = s.lDst →
          u.lLen = s.lLen → checks .depacketize u = none →
          ∃ v, exec .depacketize u = .next v ∧ v.status.err = false ∧
            Holds v.buf u.lDst.toNat (framed s.cfg.crc m) ∧ v.result = checksum s.cfg.crc m)

/-- R184: DEPACKETIZE of a valid packet with exactly one byte changed. A changed literal always ends in an
error: INTERIOR_ZERO at its position if the new value is 0x00, else CRC_MISMATCH; a changed delimiter ends in
NO_DELIMITER; a changed code byte is not always detected. -/
def Obligations.SingleByteCorruption : Prop :=
  (∀ (s t s' : State) (q : Nat) (v : Byte), s.Inv → s.InFlight .depacketize →
    s.cfg.crc.poly.getLsbD 0 = true → s.cfg.crc.refin = s.cfg.crc.refout →
    exec .depacketize s = .next t → t.status.err = false → q < s.lLen.toNat + 2 →
    v ≠ Memory.read s.buf (s.lSrc.toNat + q) →
    s' = { s with buf := Memory.write s.buf (s.lSrc.toNat + q) v } →
    ∃ u, exec .depacketize s' = .next u ∧
      (q = 0 → EndedWith u 6) ∧
      (literalAt (Memory.readBytes s.buf s.lSrc.toNat (s.lLen.toNat + 2)) q = true →
        (v = 0 → EndedWith u 9 ∧ u.errPos.toNat = q) ∧ (v ≠ 0 → EndedWith u 10))) ∧
  (∃ (m e r : List Byte) (q : Nat) (v : Byte), packet CrcParams.default m = .ok e ∧ 0 < q ∧ q < e.length ∧
    literalAt e q = false ∧ v ≠ e.getD q 0 ∧ cobsDecode (e.set q v) = .ok r ∧
    r ≠ framed CrcParams.default m ∧ r.getD (r.length - 1) 0 = checksum CrcParams.default r)
end

