-- ==== Sys2Proof/Laws/Invariant.lean ====
section
/-! SUPPORT. The invariant as a check that can be evaluated on a concrete state. -/

namespace Sys2Proof.Machine

/-- The invariant, field by field, as one Bool. -/
def State.invCheck (s : State) : Bool :=
  s.cfg.legal && Memory.wf s.buf && Memory.below s.cfg.bufSize s.buf &&
  decide (s.src.toNat < 2 ^ s.cfg.addrW) && decide (s.dst.toNat < 2 ^ s.cfg.addrW) &&
  decide (s.len.toNat < 2 ^ s.cfg.addrW) && decide (s.outLen.toNat < 2 ^ (s.cfg.addrW + 1)) &&
  decide (s.errPos.toNat < 2 ^ s.cfg.addrW) && decide (s.lSrc.toNat < 2 ^ s.cfg.addrW) &&
  decide (s.lDst.toNat < 2 ^ s.cfg.addrW) && decide (s.lLen.toNat < 2 ^ s.cfg.addrW) &&
  decide (s.lOp = wordOp s.lWord) && decide (s.status.ecode.toNat ≤ 10) &&
  decide (s.status.err = true ↔ s.status.ecode ≠ 0) && decide (s.status.err = true → s.status.done = true) &&
  decide (s.status.busy = true → s.status.done = false) &&
  decide (s.status.busy = true → s.result = 0 ∧ s.outLen = 0 ∧ s.errPos = 0) &&
  decide (s.status.busy = true → s.lWord ≠ 0)

/-- The check is the invariant. -/
theorem invCheck_iff (s : State) : s.invCheck = true ↔ s.Inv := by
  unfold State.invCheck
  simp only [Bool.and_eq_true, decide_eq_true_eq]
  constructor
  · rintro ⟨⟨⟨⟨⟨⟨⟨⟨⟨⟨⟨⟨⟨⟨⟨⟨⟨a, b⟩, c⟩, d⟩, e⟩, f⟩, g⟩, h⟩, i⟩, j⟩, k⟩, l⟩, m⟩, n⟩, o⟩, p⟩, q⟩, r⟩
    exact ⟨a, b, c, d, e, f, g, h, i, j, k, l, m, n, o, p, q, r⟩
  · rintro ⟨a, b, c, d, e, f, g, h, i, j, k, l, m, n, o, p, q, r⟩
    exact ⟨⟨⟨⟨⟨⟨⟨⟨⟨⟨⟨⟨⟨⟨⟨⟨⟨a, b⟩, c⟩, d⟩, e⟩, f⟩, g⟩, h⟩, i⟩, j⟩, k⟩, l⟩, m⟩, n⟩, o⟩, p⟩, q⟩, r⟩

end Sys2Proof.Machine
end

