-- ==== Sys2Proof/Laws/Memory.lean ====
section
/-! SUPPORT. The laws of the buffer RAM: every operation keeps the canonical form and stays below an address
bound, a read after a write, and equality of memories that read alike. -/

namespace Sys2Proof.Machine

theorem Memory.wfFrom_weaken {lo lo' : Nat} {m : List Host.Cell} (h : Memory.wfFrom lo m = true)
    (hle : lo' ≤ lo) : Memory.wfFrom lo' m = true := by
  cases m with
  | nil => rfl
  | cons c m =>
    simp only [Memory.wfFrom, Bool.and_eq_true, decide_eq_true_eq] at h ⊢
    exact ⟨⟨by omega, h.1.2⟩, h.2⟩

/-- Below a canonical list's first address every byte is the unlisted one. -/
theorem Memory.read_below {lo a : Nat} {m : List Host.Cell} (h : Memory.wfFrom lo m = true) (ha : a < lo) :
    Memory.read m a = Memory.unlisted := by
  induction m generalizing lo with
  | nil => rfl
  | cons c m ih =>
    simp only [Memory.wfFrom, Bool.and_eq_true, decide_eq_true_eq] at h
    rw [Memory.read, if_neg (by omega)]
    exact ih h.2 (by omega)

theorem Memory.wfFrom_insert {lo a : Nat} {v : Byte} {m : List Host.Cell} (h : Memory.wfFrom lo m = true)
    (ha : lo ≤ a) (hv : v ≠ Memory.unlisted) : Memory.wfFrom lo (Memory.insert a v m) = true := by
  induction m generalizing lo with
  | nil => simp [Memory.insert, Memory.wfFrom, ha, hv]
  | cons c m ih =>
    obtain ⟨b, w⟩ := c
    simp only [Memory.wfFrom, Bool.and_eq_true, decide_eq_true_eq] at h
    unfold Memory.insert
    split
    · simp only [Memory.wfFrom, Bool.and_eq_true, decide_eq_true_eq]
      exact ⟨⟨ha, hv⟩, ⟨by omega, h.1.2⟩, h.2⟩
    · split
      · subst a
        simp only [Memory.wfFrom, Bool.and_eq_true, decide_eq_true_eq]
        exact ⟨⟨ha, hv⟩, h.2⟩
      · simp only [Memory.wfFrom, Bool.and_eq_true, decide_eq_true_eq]
        exact ⟨h.1, ih h.2 (by omega)⟩

theorem Memory.wfFrom_erase {lo a : Nat} {m : List Host.Cell} (h : Memory.wfFrom lo m = true) :
    Memory.wfFrom lo (Memory.erase a m) = true := by
  induction m generalizing lo with
  | nil => rfl
  | cons c m ih =>
    obtain ⟨b, w⟩ := c
    simp only [Memory.wfFrom, Bool.and_eq_true, decide_eq_true_eq] at h
    unfold Memory.erase
    split
    · exact Memory.wfFrom_weaken h.2 (by omega)
    · simp only [Memory.wfFrom, Bool.and_eq_true, decide_eq_true_eq]
      exact ⟨h.1, ih h.2⟩

/-- A write keeps the canonical form. -/
theorem Memory.wf_write {m : List Host.Cell} (a : Nat) (v : Byte) (h : Memory.wf m = true) :
    Memory.wf (Memory.write m a v) = true := by
  unfold Memory.write Memory.wf at *
  split
  · exact Memory.wfFrom_erase h
  · exact Memory.wfFrom_insert h (Nat.zero_le _) ‹_›

/-- A write of a sequence keeps the canonical form. -/
theorem Memory.wf_writeBytes {m : List Host.Cell} (a : Nat) (d : List Byte) (h : Memory.wf m = true) :
    Memory.wf (Memory.writeBytes m a d) = true := by
  induction d generalizing m a with
  | nil => exact h
  | cons b d ih => exact ih (a + 1) (Memory.wf_write a b h)

theorem Memory.read_insert (m : List Host.Cell) (a a' : Nat) (v : Byte) :
    Memory.read (Memory.insert a v m) a' = if a' = a then v else Memory.read m a' := by
  induction m with
  | nil => simp only [Memory.insert, Memory.read, eq_comm]
  | cons c m ih =>
    obtain ⟨b, w⟩ := c
    unfold Memory.insert
    split
    · simp only [Memory.read]
      by_cases h : a' = a
      · subst h; simp
      · rw [if_neg (Ne.symm h), if_neg h]
    · split
      · subst a
        simp only [Memory.read]
        by_cases h : a' = b
        · subst h; simp
        · rw [if_neg (Ne.symm h), if_neg h, if_neg (Ne.symm h)]
      · simp only [Memory.read, ih]
        by_cases h : b = a'
        · subst h
          rw [if_pos rfl, if_neg (by omega), if_pos rfl]
        · rw [if_neg h, if_neg h]

theorem Memory.read_erase {lo : Nat} {m : List Host.Cell} (h : Memory.wfFrom lo m = true) (a a' : Nat) :
    Memory.read (Memory.erase a m) a' = if a' = a then Memory.unlisted else Memory.read m a' := by
  induction m generalizing lo with
  | nil => simp [Memory.erase, Memory.read]
  | cons c m ih =>
    obtain ⟨b, w⟩ := c
    simp only [Memory.wfFrom, Bool.and_eq_true, decide_eq_true_eq] at h
    unfold Memory.erase
    by_cases hab : a = b
    · subst hab
      rw [if_pos rfl]
      by_cases h' : a' = a
      · subst h'
        rw [if_pos rfl, Memory.read_below h.2 (by omega)]
      · rw [if_neg h', Memory.read, if_neg (Ne.symm h')]
    · rw [if_neg hab]
      simp only [Memory.read, ih h.2]
      by_cases h' : b = a'
      · subst h'
        rw [if_pos rfl, if_neg (Ne.symm hab), if_pos rfl]
      · rw [if_neg h', if_neg h']

/-- A read after a write, in a canonical buffer. -/
theorem Memory.read_write {m : List Host.Cell} (h : Memory.wf m = true) (a a' : Nat) (v : Byte) :
    Memory.read (Memory.write m a v) a' = if a' = a then v else Memory.read m a' := by
  unfold Memory.write
  split
  · subst v
    exact Memory.read_erase h a a'
  · exact Memory.read_insert m a a' v

/-- A write leaves every other byte alone, canonical or not. -/
theorem Memory.read_write_other (m : List Host.Cell) {a a' : Nat} (v : Byte) (hne : a' ≠ a) :
    Memory.read (Memory.write m a v) a' = Memory.read m a' := by
  unfold Memory.write
  split
  · induction m with
    | nil => rfl
    | cons c m ih =>
      obtain ⟨b, w⟩ := c
      unfold Memory.erase
      split
      · subst a
        rw [Memory.read, if_neg (Ne.symm hne)]
      · simp only [Memory.read, ih]
  · rw [Memory.read_insert, if_neg hne]

/-- A write of a sequence leaves every byte outside its range alone. -/
theorem Memory.read_writeBytes_outside (m : List Host.Cell) (d : List Byte) {a a' : Nat}
    (h : a' < a ∨ a + d.length ≤ a') : Memory.read (Memory.writeBytes m a d) a' = Memory.read m a' := by
  induction d generalizing m a with
  | nil => rfl
  | cons b d ih =>
    simp only [List.length_cons] at h
    rw [Memory.writeBytes, ih _ (by omega), Memory.read_write_other m b (by omega)]

/-- A read inside the range of a written sequence gives the sequence's byte. -/
theorem Memory.read_writeBytes_inside {m : List Host.Cell} (hm : Memory.wf m = true) (d : List Byte) (a k : Nat)
    (hk : k < d.length) : Memory.read (Memory.writeBytes m a d) (a + k) = d[k] := by
  induction d generalizing m a k with
  | nil => simp at hk
  | cons b d ih =>
    rw [Memory.writeBytes]
    cases k with
    | zero =>
      rw [Memory.read_writeBytes_outside _ _ (Or.inl (by omega)), Memory.read_write hm]
      simp
    | succ k =>
      have := ih (Memory.wf_write a b hm) (a + 1) k (by simpa using hk)
      rw [show a + (k + 1) = a + 1 + k by omega, this]
      simp

@[simp] theorem Memory.readBytes_length (m : List Host.Cell) (a n : Nat) :
    (Memory.readBytes m a n).length = n := by
  induction n generalizing a with
  | zero => rfl
  | succ n ih => simp [Memory.readBytes, ih]

/-- The k-th byte of a range. -/
theorem Memory.readBytes_getElem (m : List Host.Cell) (a n k : Nat) (h : k < (Memory.readBytes m a n).length) :
    (Memory.readBytes m a n)[k] = Memory.read m (a + k) := by
  induction n generalizing a k with
  | zero => simp [Memory.readBytes] at h
  | succ n ih =>
    cases k with
    | zero => rfl
    | succ k =>
      simp only [Memory.readBytes, List.getElem_cons_succ]
      rw [ih (a + 1) k (by simpa [Memory.readBytes] using h), show a + 1 + k = a + (k + 1) by omega]

/-- Reading back a written sequence gives it. -/
theorem Memory.readBytes_writeBytes {m : List Host.Cell} (hm : Memory.wf m = true) (a : Nat) (d : List Byte) :
    Memory.readBytes (Memory.writeBytes m a d) a d.length = d := by
  refine List.ext_getElem (by simp) fun k h1 h2 => ?_
  rw [Memory.readBytes_getElem, Memory.read_writeBytes_inside hm d a k h2]

/-- A range that reads alike in two buffers reads as the same sequence. -/
theorem Memory.readBytes_congr {m m' : List Host.Cell} {a n : Nat}
    (h : ∀ k, k < n → Memory.read m (a + k) = Memory.read m' (a + k)) :
    Memory.readBytes m a n = Memory.readBytes m' a n := by
  refine List.ext_getElem (by simp) fun k h1 h2 => ?_
  rw [Memory.readBytes_getElem, Memory.readBytes_getElem]
  exact h k (by simpa using h1)

theorem Memory.below_insert {n a : Nat} {v : Byte} {m : List Host.Cell} (h : Memory.below n m = true) (ha : a < n) :
    Memory.below n (Memory.insert a v m) = true := by
  induction m with
  | nil => simp [Memory.insert, Memory.below, ha]
  | cons c m ih =>
    obtain ⟨b, w⟩ := c
    simp only [Memory.below, List.all_cons, Bool.and_eq_true, decide_eq_true_eq] at h ih
    unfold Memory.insert
    split
    · simp only [Memory.below, List.all_cons, Bool.and_eq_true, decide_eq_true_eq]
      exact ⟨ha, h⟩
    · split
      · simp only [Memory.below, List.all_cons, Bool.and_eq_true, decide_eq_true_eq]
        exact ⟨ha, h.2⟩
      · simp only [Memory.below, List.all_cons, Bool.and_eq_true, decide_eq_true_eq]
        exact ⟨h.1, ih h.2⟩

theorem Memory.below_erase {n a : Nat} {m : List Host.Cell} (h : Memory.below n m = true) :
    Memory.below n (Memory.erase a m) = true := by
  induction m with
  | nil => rfl
  | cons c m ih =>
    obtain ⟨b, w⟩ := c
    simp only [Memory.below, List.all_cons, Bool.and_eq_true, decide_eq_true_eq] at h ih
    unfold Memory.erase
    split
    · exact h.2
    · simp only [Memory.below, List.all_cons, Bool.and_eq_true, decide_eq_true_eq]
      exact ⟨h.1, ih h.2⟩

/-- A write of a sequence below an address bound lists nothing at or past it. -/
theorem Memory.below_writeBytes {n : Nat} {m : List Host.Cell} (a : Nat) (d : List Byte)
    (h : Memory.below n m = true) (ha : a + d.length ≤ n) : Memory.below n (Memory.writeBytes m a d) = true := by
  induction d generalizing m a with
  | nil => exact h
  | cons b d ih =>
    simp only [List.length_cons] at ha
    refine ih (a + 1) ?_ (by omega)
    unfold Memory.write
    split
    · exact Memory.below_erase h
    · exact Memory.below_insert h (by omega)

/-- Canonical buffers from the same address on that read alike are equal data. -/
theorem Memory.wfFrom_ext {lo lo' : Nat} {m m' : List Host.Cell} (h : Memory.wfFrom lo m = true)
    (h' : Memory.wfFrom lo' m' = true) (heq : ∀ a, Memory.read m a = Memory.read m' a) : m = m' := by
  induction m generalizing lo lo' m' with
  | nil =>
    cases m' with
    | nil => rfl
    | cons c m' =>
      simp only [Memory.wfFrom, Bool.and_eq_true, decide_eq_true_eq] at h'
      have := heq c.1
      simp only [Memory.read, if_true] at this
      exact absurd this.symm h'.1.2
  | cons c m ih =>
    obtain ⟨b, w⟩ := c
    simp only [Memory.wfFrom, Bool.and_eq_true, decide_eq_true_eq] at h
    cases m' with
    | nil =>
      have := heq b
      simp only [Memory.read, if_true] at this
      exact absurd this h.1.2
    | cons c' m' =>
      obtain ⟨b', w'⟩ := c'
      simp only [Memory.wfFrom, Bool.and_eq_true, decide_eq_true_eq] at h'
      have hb : b = b' := by
        rcases Nat.lt_trichotomy b b' with hlt | heq' | hlt
        · have := heq b
          rw [Memory.read, if_pos rfl, Memory.read, if_neg (by omega), Memory.read_below h'.2 (by omega)] at this
          exact absurd this h.1.2
        · exact heq'
        · have := heq b'
          rw [Memory.read, if_neg (by omega), Memory.read_below h.2 (by omega), Memory.read, if_pos rfl] at this
          exact absurd this.symm h'.1.2
      subst hb
      have hw : w = w' := by simpa [Memory.read] using heq b
      subst hw
      refine congrArg _ (ih h.2 h'.2 fun a => ?_)
      by_cases hab : b = a
      · subst hab
        rw [Memory.read_below h.2 (by omega), Memory.read_below h'.2 (by omega)]
      · have := heq a
        rwa [Memory.read, if_neg hab, Memory.read, if_neg hab] at this

/-- Canonical buffers that read alike are equal data. -/
theorem Memory.ext_of_wf {m m' : List Host.Cell} (h : Memory.wf m = true) (h' : Memory.wf m' = true)
    (heq : ∀ a, Memory.read m a = Memory.read m' a) : m = m' := Memory.wfFrom_ext h h' heq

end Sys2Proof.Machine
end

