-- ==== Sys2Proof/Laws/State.lean ====
section
/-! SUPPORT. What each update of the state does to each field: one lemma per field and update. -/

namespace Sys2Proof.Machine

@[simp] theorem memWrite_cfg (s : State) (a : Nat) (d : List Byte) : (s.memWrite a d).cfg = s.cfg := rfl
@[simp] theorem memWrite_status (s : State) (a : Nat) (d : List Byte) : (s.memWrite a d).status = s.status := rfl
@[simp] theorem memWrite_irqEn (s : State) (a : Nat) (d : List Byte) : (s.memWrite a d).irqEn = s.irqEn := rfl
@[simp] theorem memWrite_src (s : State) (a : Nat) (d : List Byte) : (s.memWrite a d).src = s.src := rfl
@[simp] theorem memWrite_dst (s : State) (a : Nat) (d : List Byte) : (s.memWrite a d).dst = s.dst := rfl
@[simp] theorem memWrite_len (s : State) (a : Nat) (d : List Byte) : (s.memWrite a d).len = s.len := rfl
@[simp] theorem memWrite_result (s : State) (a : Nat) (d : List Byte) : (s.memWrite a d).result = s.result := rfl
@[simp] theorem memWrite_outLen (s : State) (a : Nat) (d : List Byte) : (s.memWrite a d).outLen = s.outLen := rfl
@[simp] theorem memWrite_errPos (s : State) (a : Nat) (d : List Byte) : (s.memWrite a d).errPos = s.errPos := rfl
@[simp] theorem memWrite_lWord (s : State) (a : Nat) (d : List Byte) : (s.memWrite a d).lWord = s.lWord := rfl
@[simp] theorem memWrite_lOp (s : State) (a : Nat) (d : List Byte) : (s.memWrite a d).lOp = s.lOp := rfl
@[simp] theorem memWrite_lSrc (s : State) (a : Nat) (d : List Byte) : (s.memWrite a d).lSrc = s.lSrc := rfl
@[simp] theorem memWrite_lDst (s : State) (a : Nat) (d : List Byte) : (s.memWrite a d).lDst = s.lDst := rfl
@[simp] theorem memWrite_lLen (s : State) (a : Nat) (d : List Byte) : (s.memWrite a d).lLen = s.lLen := rfl
@[simp] theorem memWrite_buf (s : State) (a : Nat) (d : List Byte) : (s.memWrite a d).buf = Memory.writeBytes s.buf a d := rfl
@[simp] theorem memWrite_draws (s : State) (a : Nat) (d : List Byte) : (s.memWrite a d).draws = s.draws := rfl
@[simp] theorem memWrite_prog (s : State) (a : Nat) (d : List Byte) : (s.memWrite a d).prog = s.prog := rfl
@[simp] theorem memWrite_turns (s : State) (a : Nat) (d : List Byte) : (s.memWrite a d).turns = s.turns := rfl
@[simp] theorem memWrite_seen (s : State) (a : Nat) (d : List Byte) : (s.memWrite a d).seen = s.seen := rfl

@[simp] theorem unspecified_cfg (s : State) (a n : Nat) : (s.unspecified a n).cfg = s.cfg := rfl
@[simp] theorem unspecified_status (s : State) (a n : Nat) : (s.unspecified a n).status = s.status := rfl
@[simp] theorem unspecified_irqEn (s : State) (a n : Nat) : (s.unspecified a n).irqEn = s.irqEn := rfl
@[simp] theorem unspecified_src (s : State) (a n : Nat) : (s.unspecified a n).src = s.src := rfl
@[simp] theorem unspecified_dst (s : State) (a n : Nat) : (s.unspecified a n).dst = s.dst := rfl
@[simp] theorem unspecified_len (s : State) (a n : Nat) : (s.unspecified a n).len = s.len := rfl
@[simp] theorem unspecified_result (s : State) (a n : Nat) : (s.unspecified a n).result = s.result := rfl
@[simp] theorem unspecified_outLen (s : State) (a n : Nat) : (s.unspecified a n).outLen = s.outLen := rfl
@[simp] theorem unspecified_errPos (s : State) (a n : Nat) : (s.unspecified a n).errPos = s.errPos := rfl
@[simp] theorem unspecified_lWord (s : State) (a n : Nat) : (s.unspecified a n).lWord = s.lWord := rfl
@[simp] theorem unspecified_lOp (s : State) (a n : Nat) : (s.unspecified a n).lOp = s.lOp := rfl
@[simp] theorem unspecified_lSrc (s : State) (a n : Nat) : (s.unspecified a n).lSrc = s.lSrc := rfl
@[simp] theorem unspecified_lDst (s : State) (a n : Nat) : (s.unspecified a n).lDst = s.lDst := rfl
@[simp] theorem unspecified_lLen (s : State) (a n : Nat) : (s.unspecified a n).lLen = s.lLen := rfl
@[simp] theorem unspecified_buf (s : State) (a n : Nat) : (s.unspecified a n).buf = Memory.writeBytes s.buf a (freeBytes s.draws n) := rfl
@[simp] theorem unspecified_draws (s : State) (a n : Nat) : (s.unspecified a n).draws = s.draws + n := rfl
@[simp] theorem unspecified_prog (s : State) (a n : Nat) : (s.unspecified a n).prog = s.prog := rfl
@[simp] theorem unspecified_turns (s : State) (a n : Nat) : (s.unspecified a n).turns = s.turns := rfl
@[simp] theorem unspecified_seen (s : State) (a n : Nat) : (s.unspecified a n).seen = s.seen := rfl

@[simp] theorem setResult_cfg (s : State) (c : Byte) : (s.setResult c).cfg = s.cfg := rfl
@[simp] theorem setResult_status (s : State) (c : Byte) : (s.setResult c).status = s.status := rfl
@[simp] theorem setResult_irqEn (s : State) (c : Byte) : (s.setResult c).irqEn = s.irqEn := rfl
@[simp] theorem setResult_src (s : State) (c : Byte) : (s.setResult c).src = s.src := rfl
@[simp] theorem setResult_dst (s : State) (c : Byte) : (s.setResult c).dst = s.dst := rfl
@[simp] theorem setResult_len (s : State) (c : Byte) : (s.setResult c).len = s.len := rfl
@[simp] theorem setResult_result (s : State) (c : Byte) : (s.setResult c).result = c := rfl
@[simp] theorem setResult_outLen (s : State) (c : Byte) : (s.setResult c).outLen = s.outLen := rfl
@[simp] theorem setResult_errPos (s : State) (c : Byte) : (s.setResult c).errPos = s.errPos := rfl
@[simp] theorem setResult_lWord (s : State) (c : Byte) : (s.setResult c).lWord = s.lWord := rfl
@[simp] theorem setResult_lOp (s : State) (c : Byte) : (s.setResult c).lOp = s.lOp := rfl
@[simp] theorem setResult_lSrc (s : State) (c : Byte) : (s.setResult c).lSrc = s.lSrc := rfl
@[simp] theorem setResult_lDst (s : State) (c : Byte) : (s.setResult c).lDst = s.lDst := rfl
@[simp] theorem setResult_lLen (s : State) (c : Byte) : (s.setResult c).lLen = s.lLen := rfl
@[simp] theorem setResult_buf (s : State) (c : Byte) : (s.setResult c).buf = s.buf := rfl
@[simp] theorem setResult_draws (s : State) (c : Byte) : (s.setResult c).draws = s.draws := rfl
@[simp] theorem setResult_prog (s : State) (c : Byte) : (s.setResult c).prog = s.prog := rfl
@[simp] theorem setResult_turns (s : State) (c : Byte) : (s.setResult c).turns = s.turns := rfl
@[simp] theorem setResult_seen (s : State) (c : Byte) : (s.setResult c).seen = s.seen := rfl

@[simp] theorem setOutLen_cfg (s : State) (n : Nat) : (s.setOutLen n).cfg = s.cfg := rfl
@[simp] theorem setOutLen_status (s : State) (n : Nat) : (s.setOutLen n).status = s.status := rfl
@[simp] theorem setOutLen_irqEn (s : State) (n : Nat) : (s.setOutLen n).irqEn = s.irqEn := rfl
@[simp] theorem setOutLen_src (s : State) (n : Nat) : (s.setOutLen n).src = s.src := rfl
@[simp] theorem setOutLen_dst (s : State) (n : Nat) : (s.setOutLen n).dst = s.dst := rfl
@[simp] theorem setOutLen_len (s : State) (n : Nat) : (s.setOutLen n).len = s.len := rfl
@[simp] theorem setOutLen_result (s : State) (n : Nat) : (s.setOutLen n).result = s.result := rfl
@[simp] theorem setOutLen_outLen (s : State) (n : Nat) : (s.setOutLen n).outLen = keepBits (s.cfg.addrW + 1) n := rfl
@[simp] theorem setOutLen_errPos (s : State) (n : Nat) : (s.setOutLen n).errPos = s.errPos := rfl
@[simp] theorem setOutLen_lWord (s : State) (n : Nat) : (s.setOutLen n).lWord = s.lWord := rfl
@[simp] theorem setOutLen_lOp (s : State) (n : Nat) : (s.setOutLen n).lOp = s.lOp := rfl
@[simp] theorem setOutLen_lSrc (s : State) (n : Nat) : (s.setOutLen n).lSrc = s.lSrc := rfl
@[simp] theorem setOutLen_lDst (s : State) (n : Nat) : (s.setOutLen n).lDst = s.lDst := rfl
@[simp] theorem setOutLen_lLen (s : State) (n : Nat) : (s.setOutLen n).lLen = s.lLen := rfl
@[simp] theorem setOutLen_buf (s : State) (n : Nat) : (s.setOutLen n).buf = s.buf := rfl
@[simp] theorem setOutLen_draws (s : State) (n : Nat) : (s.setOutLen n).draws = s.draws := rfl
@[simp] theorem setOutLen_prog (s : State) (n : Nat) : (s.setOutLen n).prog = s.prog := rfl
@[simp] theorem setOutLen_turns (s : State) (n : Nat) : (s.setOutLen n).turns = s.turns := rfl
@[simp] theorem setOutLen_seen (s : State) (n : Nat) : (s.setOutLen n).seen = s.seen := rfl

@[simp] theorem complete_cfg (s : State) : s.complete.cfg = s.cfg := rfl
@[simp] theorem complete_status (s : State) : s.complete.status = Status.completed := rfl
@[simp] theorem complete_irqEn (s : State) : s.complete.irqEn = s.irqEn := rfl
@[simp] theorem complete_src (s : State) : s.complete.src = s.src := rfl
@[simp] theorem complete_dst (s : State) : s.complete.dst = s.dst := rfl
@[simp] theorem complete_len (s : State) : s.complete.len = s.len := rfl
@[simp] theorem complete_result (s : State) : s.complete.result = s.result := rfl
@[simp] theorem complete_outLen (s : State) : s.complete.outLen = s.outLen := rfl
@[simp] theorem complete_errPos (s : State) : s.complete.errPos = s.errPos := rfl
@[simp] theorem complete_lWord (s : State) : s.complete.lWord = s.lWord := rfl
@[simp] theorem complete_lOp (s : State) : s.complete.lOp = s.lOp := rfl
@[simp] theorem complete_lSrc (s : State) : s.complete.lSrc = s.lSrc := rfl
@[simp] theorem complete_lDst (s : State) : s.complete.lDst = s.lDst := rfl
@[simp] theorem complete_lLen (s : State) : s.complete.lLen = s.lLen := rfl
@[simp] theorem complete_buf (s : State) : s.complete.buf = s.buf := rfl
@[simp] theorem complete_draws (s : State) : s.complete.draws = s.draws := rfl
@[simp] theorem complete_prog (s : State) : s.complete.prog = s.prog := rfl
@[simp] theorem complete_turns (s : State) : s.complete.turns = s.turns := rfl
@[simp] theorem complete_seen (s : State) : s.complete.seen = s.seen := rfl

@[simp] theorem raise_cfg (s : State) (x : Failure) : (s.raise x).cfg = s.cfg := rfl
@[simp] theorem raise_status (s : State) (x : Failure) : (s.raise x).status = Status.raised x.code := rfl
@[simp] theorem raise_irqEn (s : State) (x : Failure) : (s.raise x).irqEn = s.irqEn := rfl
@[simp] theorem raise_src (s : State) (x : Failure) : (s.raise x).src = s.src := rfl
@[simp] theorem raise_dst (s : State) (x : Failure) : (s.raise x).dst = s.dst := rfl
@[simp] theorem raise_len (s : State) (x : Failure) : (s.raise x).len = s.len := rfl
@[simp] theorem raise_result (s : State) (x : Failure) : (s.raise x).result = s.result := rfl
@[simp] theorem raise_outLen (s : State) (x : Failure) : (s.raise x).outLen = s.outLen := rfl
@[simp] theorem raise_errPos (s : State) (x : Failure) : (s.raise x).errPos = keepBits s.cfg.addrW x.pos := rfl
@[simp] theorem raise_lWord (s : State) (x : Failure) : (s.raise x).lWord = s.lWord := rfl
@[simp] theorem raise_lOp (s : State) (x : Failure) : (s.raise x).lOp = s.lOp := rfl
@[simp] theorem raise_lSrc (s : State) (x : Failure) : (s.raise x).lSrc = s.lSrc := rfl
@[simp] theorem raise_lDst (s : State) (x : Failure) : (s.raise x).lDst = s.lDst := rfl
@[simp] theorem raise_lLen (s : State) (x : Failure) : (s.raise x).lLen = s.lLen := rfl
@[simp] theorem raise_buf (s : State) (x : Failure) : (s.raise x).buf = s.buf := rfl
@[simp] theorem raise_draws (s : State) (x : Failure) : (s.raise x).draws = s.draws := rfl
@[simp] theorem raise_prog (s : State) (x : Failure) : (s.raise x).prog = s.prog := rfl
@[simp] theorem raise_turns (s : State) (x : Failure) : (s.raise x).turns = s.turns := rfl
@[simp] theorem raise_seen (s : State) (x : Failure) : (s.raise x).seen = s.seen := rfl

@[simp] theorem accept_cfg (s : State) (w : Word) : (s.accept w).cfg = s.cfg := rfl
@[simp] theorem accept_status (s : State) (w : Word) : (s.accept w).status = Status.accepted := rfl
@[simp] theorem accept_irqEn (s : State) (w : Word) : (s.accept w).irqEn = s.irqEn := rfl
@[simp] theorem accept_src (s : State) (w : Word) : (s.accept w).src = s.src := rfl
@[simp] theorem accept_dst (s : State) (w : Word) : (s.accept w).dst = s.dst := rfl
@[simp] theorem accept_len (s : State) (w : Word) : (s.accept w).len = s.len := rfl
@[simp] theorem accept_result (s : State) (w : Word) : (s.accept w).result = 0 := rfl
@[simp] theorem accept_outLen (s : State) (w : Word) : (s.accept w).outLen = 0 := rfl
@[simp] theorem accept_errPos (s : State) (w : Word) : (s.accept w).errPos = 0 := rfl
@[simp] theorem accept_lWord (s : State) (w : Word) : (s.accept w).lWord = w := rfl
@[simp] theorem accept_lOp (s : State) (w : Word) : (s.accept w).lOp = wordOp w := rfl
@[simp] theorem accept_lSrc (s : State) (w : Word) : (s.accept w).lSrc = s.src := rfl
@[simp] theorem accept_lDst (s : State) (w : Word) : (s.accept w).lDst = s.dst := rfl
@[simp] theorem accept_lLen (s : State) (w : Word) : (s.accept w).lLen = s.len := rfl
@[simp] theorem accept_buf (s : State) (w : Word) : (s.accept w).buf = s.buf := rfl
@[simp] theorem accept_draws (s : State) (w : Word) : (s.accept w).draws = s.draws := rfl
@[simp] theorem accept_prog (s : State) (w : Word) : (s.accept w).prog = s.prog := rfl
@[simp] theorem accept_turns (s : State) (w : Word) : (s.accept w).turns = s.turns := rfl
@[simp] theorem accept_seen (s : State) (w : Word) : (s.accept w).seen = s.seen := rfl

@[simp] theorem see_cfg (s : State) (w : Word) : (s.see w).cfg = s.cfg := rfl
@[simp] theorem see_status (s : State) (w : Word) : (s.see w).status = s.status := rfl
@[simp] theorem see_irqEn (s : State) (w : Word) : (s.see w).irqEn = s.irqEn := rfl
@[simp] theorem see_src (s : State) (w : Word) : (s.see w).src = s.src := rfl
@[simp] theorem see_dst (s : State) (w : Word) : (s.see w).dst = s.dst := rfl
@[simp] theorem see_len (s : State) (w : Word) : (s.see w).len = s.len := rfl
@[simp] theorem see_result (s : State) (w : Word) : (s.see w).result = s.result := rfl
@[simp] theorem see_outLen (s : State) (w : Word) : (s.see w).outLen = s.outLen := rfl
@[simp] theorem see_errPos (s : State) (w : Word) : (s.see w).errPos = s.errPos := rfl
@[simp] theorem see_lWord (s : State) (w : Word) : (s.see w).lWord = s.lWord := rfl
@[simp] theorem see_lOp (s : State) (w : Word) : (s.see w).lOp = s.lOp := rfl
@[simp] theorem see_lSrc (s : State) (w : Word) : (s.see w).lSrc = s.lSrc := rfl
@[simp] theorem see_lDst (s : State) (w : Word) : (s.see w).lDst = s.lDst := rfl
@[simp] theorem see_lLen (s : State) (w : Word) : (s.see w).lLen = s.lLen := rfl
@[simp] theorem see_buf (s : State) (w : Word) : (s.see w).buf = s.buf := rfl
@[simp] theorem see_draws (s : State) (w : Word) : (s.see w).draws = s.draws := rfl
@[simp] theorem see_prog (s : State) (w : Word) : (s.see w).prog = s.prog := rfl
@[simp] theorem see_turns (s : State) (w : Word) : (s.see w).turns = s.turns := rfl
@[simp] theorem see_seen (s : State) (w : Word) : (s.see w).seen = w :: s.seen := rfl

@[simp] theorem popOp_cfg (s : State) : s.popOp.cfg = s.cfg := rfl
@[simp] theorem popOp_status (s : State) : s.popOp.status = s.status := rfl
@[simp] theorem popOp_irqEn (s : State) : s.popOp.irqEn = s.irqEn := rfl
@[simp] theorem popOp_src (s : State) : s.popOp.src = s.src := rfl
@[simp] theorem popOp_dst (s : State) : s.popOp.dst = s.dst := rfl
@[simp] theorem popOp_len (s : State) : s.popOp.len = s.len := rfl
@[simp] theorem popOp_result (s : State) : s.popOp.result = s.result := rfl
@[simp] theorem popOp_outLen (s : State) : s.popOp.outLen = s.outLen := rfl
@[simp] theorem popOp_errPos (s : State) : s.popOp.errPos = s.errPos := rfl
@[simp] theorem popOp_lWord (s : State) : s.popOp.lWord = s.lWord := rfl
@[simp] theorem popOp_lOp (s : State) : s.popOp.lOp = s.lOp := rfl
@[simp] theorem popOp_lSrc (s : State) : s.popOp.lSrc = s.lSrc := rfl
@[simp] theorem popOp_lDst (s : State) : s.popOp.lDst = s.lDst := rfl
@[simp] theorem popOp_lLen (s : State) : s.popOp.lLen = s.lLen := rfl
@[simp] theorem popOp_buf (s : State) : s.popOp.buf = s.buf := rfl
@[simp] theorem popOp_draws (s : State) : s.popOp.draws = s.draws := rfl
@[simp] theorem popOp_prog (s : State) : s.popOp.prog = s.prog.tail := rfl
@[simp] theorem popOp_turns (s : State) : s.popOp.turns = s.turns := rfl
@[simp] theorem popOp_seen (s : State) : s.popOp.seen = s.seen := rfl

@[simp] theorem popTurn_cfg (s : State) : s.popTurn.cfg = s.cfg := rfl
@[simp] theorem popTurn_status (s : State) : s.popTurn.status = s.status := rfl
@[simp] theorem popTurn_irqEn (s : State) : s.popTurn.irqEn = s.irqEn := rfl
@[simp] theorem popTurn_src (s : State) : s.popTurn.src = s.src := rfl
@[simp] theorem popTurn_dst (s : State) : s.popTurn.dst = s.dst := rfl
@[simp] theorem popTurn_len (s : State) : s.popTurn.len = s.len := rfl
@[simp] theorem popTurn_result (s : State) : s.popTurn.result = s.result := rfl
@[simp] theorem popTurn_outLen (s : State) : s.popTurn.outLen = s.outLen := rfl
@[simp] theorem popTurn_errPos (s : State) : s.popTurn.errPos = s.errPos := rfl
@[simp] theorem popTurn_lWord (s : State) : s.popTurn.lWord = s.lWord := rfl
@[simp] theorem popTurn_lOp (s : State) : s.popTurn.lOp = s.lOp := rfl
@[simp] theorem popTurn_lSrc (s : State) : s.popTurn.lSrc = s.lSrc := rfl
@[simp] theorem popTurn_lDst (s : State) : s.popTurn.lDst = s.lDst := rfl
@[simp] theorem popTurn_lLen (s : State) : s.popTurn.lLen = s.lLen := rfl
@[simp] theorem popTurn_buf (s : State) : s.popTurn.buf = s.buf := rfl
@[simp] theorem popTurn_draws (s : State) : s.popTurn.draws = s.draws := rfl
@[simp] theorem popTurn_prog (s : State) : s.popTurn.prog = s.prog := rfl
@[simp] theorem popTurn_turns (s : State) : s.popTurn.turns = s.turns.tail := rfl
@[simp] theorem popTurn_seen (s : State) : s.popTurn.seen = s.seen := rfl

@[simp] theorem applyReset_cfg (s : State) : s.applyReset.cfg = s.cfg := rfl
@[simp] theorem applyReset_status (s : State) : s.applyReset.status = Status.idle := rfl
@[simp] theorem applyReset_irqEn (s : State) : s.applyReset.irqEn = false := rfl
@[simp] theorem applyReset_src (s : State) : s.applyReset.src = 0 := rfl
@[simp] theorem applyReset_dst (s : State) : s.applyReset.dst = 0 := rfl
@[simp] theorem applyReset_len (s : State) : s.applyReset.len = 0 := rfl
@[simp] theorem applyReset_result (s : State) : s.applyReset.result = 0 := rfl
@[simp] theorem applyReset_outLen (s : State) : s.applyReset.outLen = 0 := rfl
@[simp] theorem applyReset_errPos (s : State) : s.applyReset.errPos = 0 := rfl
@[simp] theorem applyReset_lWord (s : State) : s.applyReset.lWord = 0 := rfl
@[simp] theorem applyReset_lOp (s : State) : s.applyReset.lOp = 0 := rfl
@[simp] theorem applyReset_lSrc (s : State) : s.applyReset.lSrc = 0 := rfl
@[simp] theorem applyReset_lDst (s : State) : s.applyReset.lDst = 0 := rfl
@[simp] theorem applyReset_lLen (s : State) : s.applyReset.lLen = 0 := rfl
@[simp] theorem applyReset_buf (s : State) : s.applyReset.buf = s.abandon.buf := rfl
@[simp] theorem applyReset_draws (s : State) : s.applyReset.draws = s.abandon.draws := rfl
@[simp] theorem applyReset_prog (s : State) : s.applyReset.prog = s.prog := rfl
@[simp] theorem applyReset_turns (s : State) : s.applyReset.turns = s.turns := rfl
@[simp] theorem applyReset_seen (s : State) : s.applyReset.seen = s.seen := rfl

end Sys2Proof.Machine
end

