-- ==== Sys2Proof/Laws/Ops.lean ====
section
/-! SUPPORT. What each shared operation can do, said once: the checks, the two ways a command ends, a host
access, and one step. -/

namespace Sys2Proof.Machine

@[simp] theorem freeBytes_length (n0 n : Nat) : (freeBytes n0 n).length = n := by
  induction n generalizing n0 with
  | zero => rfl
  | succ n ih => simp [freeBytes, ih]

/-- The k-th free byte of a range is the k-th draw. -/
theorem freeBytes_getElem (n0 n k : Nat) (h : k < (freeBytes n0 n).length) :
    (freeBytes n0 n)[k] = Config.freeByte (n0 + k) := by
  induction n generalizing n0 k with
  | zero => simp [freeBytes] at h
  | succ n ih =>
    cases k with
    | zero => rfl
    | succ k =>
      simp only [freeBytes, List.getElem_cons_succ]
      rw [ih (n0 + 1) k (by simpa [freeBytes] using h), show n0 + 1 + k = n0 + (k + 1) by omega]

/-- A register field holds the value modulo its width (R9). -/
theorem keepBits_toNat {w : Nat} (n : Nat) (hw : w ≤ 32) : (keepBits w n).toNat = n % 2 ^ w := by
  rw [keepBits, BitVec.toNat_ofNat]
  exact Nat.mod_eq_of_lt (lt_of_lt_of_le (Nat.mod_lt _ (by positivity)) (Nat.pow_le_pow_right (by norm_num) hw))

/-- check_bounds passes exactly when both windows of the command end inside BUF (R107). -/
theorem checkBounds_eq_none {i : Instr} {s : State} : checkBounds i s = none ↔
    (∀ v, inWindow i s = some v → v.top ≤ s.cfg.bufSize) ∧
      (∀ v, outWindow i s = some v → v.top ≤ s.cfg.bufSize) := by
  unfold checkBounds pastEnd
  cases inWindow i s <;> cases outWindow i s <;> simp

/-- A command that passed its checks has its windows inside BUF (R51, R107). -/
theorem windows_inside_of_checks {i : Instr} {s : State} (h : checks i s = none) :
    (∀ v, inWindow i s = some v → v.top ≤ s.cfg.bufSize) ∧
      (∀ v, outWindow i s = some v → v.top ≤ s.cfg.bufSize) := by
  refine checkBounds_eq_none.mp ?_
  unfold checks at h
  split at h
  · cases h
  · split at h
    · cases h
    · assumption

/-- The start of a command (R111): it ends with the first failed check and no other effect, or its body runs. -/
theorem checked_cases (s : State) (i : Instr) (body : State → State) :
    (∃ e, checks i s = some e ∧ s.checked i body = s.raise { code := e, pos := 0 }) ∨
      (checks i s = none ∧ s.checked i body = body s) := by
  unfold State.checked
  cases checks i s with
  | none => exact .inr ⟨rfl, rfl⟩
  | some e => exact .inl ⟨e, rfl, rfl⟩

/-- What the end of an encoding or decoding does (R145, R165, R181). -/
theorem deliver_cases (s : State) (a n : Nat) (r : Except Failure (List Byte)) :
    (∃ x, r = .error x ∧ s.deliver a n r = (s.unspecified a n).raise x) ∨
      (∃ d, r = .ok d ∧ s.deliver a n r = ((s.memWrite a d).setOutLen n).complete) := by
  cases r with
  | error x => exact .inl ⟨x, rfl, rfl⟩
  | ok d => exact .inr ⟨d, rfl, rfl⟩

/-- The command map is the encoding's inverse on legal words: a word that decodes to ACK is word 0. -/
theorem eq_zero_of_decode_ack {w : Word} (h : decode w = .ok .ack) : w = 0 := by
  unfold decode decodeFields at h
  split at h
  · rename_i hr
    unfold decodeOp at h
    split at h <;> simp_all
    rename_i ho
    refine BitVec.eq_of_toNat_eq ?_
    have h1 := congrArg BitVec.toNat hr
    simp only [wordRsv, wordOp, BitVec.extractLsb'_toNat] at h1 ho
    simp at h1 ho
    have := w.isLt
    rw [Nat.shiftRight_eq_div_pow] at h1
    simp
    omega
  · cases h

/-- What a host access that goes through can do (R52 to R55, R101 to R103). -/
theorem access_cases {s t : State} {op : BusOp} (h : s.access op = .next t) :
    (op.kind = .read ∧ ∃ w, t = s.see w) ∨
      (op.kind = .write ∧
        (t = s ∨ (∃ b, t = { s with irqEn := b }) ∨
          (∃ n, t = { s with src := keepBits s.cfg.addrW n }) ∨
          (∃ n, t = { s with dst := keepBits s.cfg.addrW n }) ∨
          (∃ n, t = { s with len := keepBits s.cfg.addrW n }) ∨
          (∃ a d, a + d.length ≤ s.cfg.bufSize ∧ t = s.memWrite a d) ∨
          (s.status.busy = false ∧ exec .ack s = .next t) ∨
          (s.status.busy = false ∧ ∃ w, w ≠ 0 ∧ t = s.accept w))) := by
  unfold State.access at h
  split at h
  · unfold State.regAccess at h
    split at h
    · split at h
      · rename_i hk hr
        cases h; exact .inl ⟨hk, _, rfl⟩
      · rename_i hk hr
        cases h; exact .inl ⟨hk, _, rfl⟩
      · rename_i r hk hr
        refine .inr ⟨hk, ?_⟩
        unfold State.writeReg at h
        split at h
        · unfold State.writeCmd at h
          split at h
          · cases h; exact .inl rfl
          · rename_i hb
            split at h
            · exact .inr (.inr (.inr (.inr (.inr (.inr (.inl ⟨by simpa using hb, h⟩))))))
            · rename_i hw
              cases h
              exact .inr (.inr (.inr (.inr (.inr (.inr (.inr ⟨by simpa using hb, _, hw, rfl⟩))))))
        · cases h; exact .inr (.inl ⟨_, rfl⟩)
        · cases h; exact .inr (.inr (.inl ⟨_, rfl⟩))
        · cases h; exact .inr (.inr (.inr (.inl ⟨_, rfl⟩)))
        · cases h; exact .inr (.inr (.inr (.inr (.inl ⟨_, rfl⟩))))
        all_goals cases h; exact .inl rfl
      · rename_i hk hr
        cases h; exact .inr ⟨hk, .inl rfl⟩
    · cases h
  · unfold State.bufAccess at h
    split at h
    · rename_i hok
      split at h
      · cases h
      · split at h
        · rename_i hk
          cases h; exact .inl ⟨hk, _, rfl⟩
        · rename_i hk
          cases h
          refine .inr ⟨hk, .inr (.inr (.inr (.inr (.inr (.inl ⟨_, _, ?_, rfl⟩)))))⟩
          revert hok
          cases op.width <;>
            simp [bufAccessOk, accessBytes, wordBytes, Width.bytes]
    · cases h
  · cases h

/-- What the engine's step can do (R104, R111). -/
theorem engineStep_cases {s t : State} (h : s.engineStep = .next t) :
    (s.status.busy = false ∧ t = s) ∨
      (s.status.busy = true ∧ ∃ i, s.latched = .ok i ∧ exec i s = .next t) ∨
      (s.status.busy = true ∧ (∃ x, s.latched = .error x) ∧ t = completeIllegal s) := by
  unfold State.engineStep at h
  split at h
  · split at h
    · exact .inr (.inl ⟨‹_›, _, ‹_›, h⟩)
    · cases h; exact .inr (.inr ⟨‹_›, ⟨_, ‹_›⟩, rfl⟩)
  · rename_i hb
    cases h; exact .inl ⟨by simpa using hb, rfl⟩

/-- What a host step can do (R100): nothing at its program's end, an access, or one pass of `wait`. -/
theorem hostStep_cases {s t : State} (h : s.hostStep = .next t) :
    (s.prog = [] ∧ t = s) ∨ (∃ op rest, s.prog = .bus op :: rest ∧ s.popOp.access op = .next t) ∨
      (∃ rest, s.prog = .wait :: rest ∧ t = s.waitStep) := by
  unfold State.hostStep at h
  split at h
  · cases h; exact .inl ⟨‹_›, rfl⟩
  · exact .inr (.inl ⟨_, _, ‹_›, h⟩)
  · cases h; exact .inr (.inr ⟨_, ‹_›, rfl⟩)

theorem popTurn_of_nil {s : State} (h : s.turns = []) : s.popTurn = s := by
  unfold State.popTurn
  rw [h, List.tail_nil, ← h]

/-- What one step can do: the reset input (R230), the engine's step, or a host step, each on the state with its
turn taken off the list. -/
theorem step_cases {s t : State} (h : step s = .next t) :
    t = s.popTurn.applyReset ∨ s.popTurn.engineStep = .next t ∨ s.popTurn.hostStep = .next t := by
  unfold step State.advance at h
  split at h
  · rename_i tn ts hts
    cases tn with
    | host => exact .inr (.inr h)
    | engine => exact .inr (.inl h)
    | reset => cases h; exact .inl rfl
  · rename_i hts
    rw [popTurn_of_nil hts]
    split at h
    · exact .inr (.inl h)
    · exact .inr (.inr h)

end Sys2Proof.Machine
end

