-- ==== Sys2Proof/Laws/PerInstr.lean ====
section
/-! SUPPORT. Statements for all instructions, one lemma per constructor. -/

namespace Sys2Proof.Laws.LegalWord

/-- The instruction's word is a legal command word (R71, R72): its reserved bits are 0 and its OP is below 6. -/
def Statement (i : Instr) : Prop := i.wf = true ∧ wordLegal (encode i) = true

theorem ack : Statement .ack := by unfold Statement; decide
theorem crc8 : Statement .crc8 := by unfold Statement; decide
theorem cobsEnc : Statement .cobsEnc := by unfold Statement; decide
theorem cobsDec : Statement .cobsDec := by unfold Statement; decide
theorem packetize : Statement .packetize := by unfold Statement; decide
theorem depacketize : Statement .depacketize := by unfold Statement; decide

end Sys2Proof.Laws.LegalWord
end

