-- ==== Sys2Proof/Tests/Slice0.lean ====
section
/-! SUPPORT. Tests: the decoder on words written out from R70, ill-formed terms for each check, one small step
per instruction with the expected result of 95_test_vectors.md, and a witness for the hypotheses of every
statement. -/

-- One theorem after another: each check in the kernel takes a thread of its own, and the threads' stacks add up.
set_option Elab.async false

namespace Sys2Proof.Tests

open Sys2Proof.Machine

/-! ### Helpers -/

/-- The outcome is a next state with a property. -/
def after (o : Host.Outcome State Fault Refusal) (p : State → Bool) : Bool :=
  match o with
  | .next t => p t
  | .fault _ => false
  | .refused _ => false

/-- The outcome is a given fault. -/
def faults (o : Host.Outcome State Fault Refusal) (f : Fault) : Bool :=
  match o with
  | .next _ => false
  | .fault g => g == f
  | .refused _ => false

/-- The codec's answer is a given failure. -/
def fails (r : Except Failure (List Byte)) (x : Failure) : Bool :=
  match r with
  | .ok _ => false
  | .error y => y == x

/-- A state of the example configuration with operands and buffer, idle. -/
def idle (src dst len : Word) (buf : List Host.Cell) : State :=
  { State.reset with src := src, dst := dst, len := len, buf := buf }

/-- A command in flight on the same. -/
def flying (i : Instr) (src dst len : Word) (buf : List Host.Cell) : State := (idle src dst len buf).accept (encode i)

/-- The message of W1 at 0x010, its last byte open. -/
def w1Message : List Host.Cell := [(0x10, 0x01), (0x12, 0x02), (0x13, 0xAA)]

/-- The packet of W1 at 0x100. -/
def w1Packet : List Host.Cell := [(0x101, 0x02), (0x102, 0x01), (0x103, 0x03), (0x104, 0x02), (0x105, 0x35)]

/-- n cells of 01 from an address on. -/
def ones : Nat → Nat → List Host.Cell
  | _, 0 => []
  | a, n + 1 => (a, 0x01) :: ones (a + 1) n

/-- A small configuration: 14 bytes of BUF, so 2 bytes of padding in the buffer window. -/
def small : Config := { Config.example with addrW := 4, bufSize := 14 }

/-! ### The command word (R70 to R72) -/

theorem test_decode_ack : decode 0b00000000000000000000000000000000#32 = .ok .ack := by rfl
theorem test_decode_crc8 : decode 0b00000000000000000000000000000001#32 = .ok .crc8 := by rfl
theorem test_decode_cobsEnc : decode 0b00000000000000000000000000000010#32 = .ok .cobsEnc := by rfl
theorem test_decode_cobsDec : decode 0b00000000000000000000000000000011#32 = .ok .cobsDec := by rfl
theorem test_decode_packetize : decode 0b00000000000000000000000000000100#32 = .ok .packetize := by rfl
theorem test_decode_depacketize : decode 0b00000000000000000000000000000101#32 = .ok .depacketize := by rfl
theorem test_decode_reservedOp : decode 0x00000007 = .error .reservedOp := by rfl
theorem test_decode_reservedBits : decode 0x80000001 = .error .reservedBits := by rfl
theorem test_decodeTableWord : decodeTableWord 32 4 = some .packetize ∧ decodeTableWord 32 0x10 = none ∧
    decodeTableWord 64 0x100000001 = none := by decide +kernel

/-! ### Ill-formed terms, one for each check -/

theorem test_word_illegal_op : wordLegal 0x00000006 = false := by decide +kernel
theorem test_word_illegal_bits : wordLegal 0x00000010 = false := by decide +kernel
theorem test_params_illegal : CrcParams.legal { CrcParams.default with poly := 0x07 } = false := by decide +kernel
theorem test_config_addrW : Config.legal { Config.example with addrW := 32 } = false := by decide +kernel
theorem test_config_addrW_low : Config.legal { small with addrW := 1, bufSize := 2 } = false := by decide +kernel
theorem test_config_bufSize : Config.legal { small with bufSize := 17 } = false := by decide +kernel
theorem test_config_bufSize_zero : Config.legal { small with bufSize := 0 } = false := by decide +kernel
theorem test_config_regBase : Config.legal { Config.example with regBase := 0x1010 } = false := by decide +kernel
theorem test_config_bufBase : Config.legal { Config.example with bufBase := 0x2002 } = false := by decide +kernel
theorem test_config_apart : Config.legal { Config.example with bufBase := 0x1004 } = false := by decide +kernel
theorem test_config_crc :
    Config.legal { Config.example with crc := { CrcParams.default with init := 0 } } = false := by decide +kernel
theorem test_buffer_order : Memory.wf [(4, 1), (3, 1)] = false := by decide +kernel
theorem test_buffer_twice : Memory.wf [(3, 1), (3, 2)] = false := by decide +kernel
theorem test_buffer_unlisted : Memory.wf [(3, 0)] = false := by decide +kernel
theorem test_buffer_below : Memory.below 14 [(14, 1)] = false := by decide +kernel
theorem test_reg_access_narrow : regAccessOk .w8 0x04 = false ∧ regAccessOk .w16 0x04 = false := by decide +kernel
theorem test_reg_access_misaligned : regAccessOk .w32 0x06 = false := by decide +kernel
theorem test_buf_access_16 : bufAccessOk small .w16 0 = false := by decide +kernel
theorem test_buf_access_misaligned : bufAccessOk small .w32 2 = false := by decide +kernel
theorem test_buf_access_past : bufAccessOk small .w32 12 = false ∧ bufAccessOk small .w8 14 = false := by decide +kernel

/-! ### One step of each instruction (95_test_vectors.md) -/

/-- LC-6: ACK after a CRC mismatch keeps RESULT and OUTLEN. -/
theorem test_ack_keeps_results :
    after (exec .ack { State.reset with status := { busy := false, done := true, err := true, ecode := 10 },
                                        result := 0x35, outLen := 4 })
      (fun t => t.status.word == 0 && t.result == 0x35 && t.outLen == 4) = true := by decide +kernel

/-- CRC8-1, and CRC8-6's DST = 0xFFFF. -/
theorem test_crc8_reference :
    after (exec .crc8 (flying .crc8 0x010 0xFFFF 3 w1Message))
      (fun t => t.result == 0x35 && t.status.word == 0x00000002 && t.outLen == 0) = true := by decide +kernel

/-- CRC8-3 and CRC8-4: an empty window at BUF_SIZE passes, past it fails. -/
theorem test_crc8_bounds :
    after (exec .crc8 (flying .crc8 0x400 0 0 [])) (fun t => t.result == 0xFF && t.status.word == 0x002) = true ∧
    after (exec .crc8 (flying .crc8 0x401 0 0 [])) (fun t => t.result == 0 && t.status.word == 0x306) = true := by
  decide +kernel

/-- CENC-1. -/
theorem test_cobsEnc_example :
    after (exec .cobsEnc (flying .cobsEnc 0x020 0x040 4 [(0x20, 0x11), (0x21, 0x22), (0x23, 0x33)]))
      (fun t => t.memRead 0x040 6 == [0x00, 0x03, 0x11, 0x22, 0x02, 0x33] && t.outLen == 6 &&
        t.status.word == 0x00000002) = true := by decide +kernel

/-- CENC-5: the 255th non-zero byte. -/
theorem test_cobsEnc_run_too_long :
    after (exec .cobsEnc (flying .cobsEnc 0x000 0x200 255 (ones 0 255)))
      (fun t => t.status.word == 0x00000506 && t.errPos == 254 && t.outLen == 0) = true := by decide +kernel

/-- CDEC-1. -/
theorem test_cobsDec_example :
    after (exec .cobsDec (flying .cobsDec 0x040 0x060 6
        [(0x41, 0x03), (0x42, 0x11), (0x43, 0x22), (0x44, 0x02), (0x45, 0x33)]))
      (fun t => t.memRead 0x060 4 == [0x11, 0x22, 0x00, 0x33] && t.outLen == 4 && t.status.word == 0x00000002) =
      true := by decide +kernel

/-- CDEC-2: a zero literal. -/
theorem test_cobsDec_interior_zero :
    after (exec .cobsDec (flying .cobsDec 0x300 0x310 4 [(0x301, 0x03), (0x302, 0x11)]))
      (fun t => t.status.word == 0x00000906 && t.errPos == 3 && t.outLen == 0) = true := by decide +kernel

/-- PK-1. -/
theorem test_packetize_example :
    after (exec .packetize (flying .packetize 0x010 0x100 4 w1Message))
      (fun t => Memory.read t.buf 0x013 == 0x35 && t.memRead 0x100 6 == [0x00, 0x02, 0x01, 0x03, 0x02, 0x35] &&
        t.result == 0x35 && t.outLen == 6 && t.status.word == 0x00000002) = true := by decide +kernel

/-- PK-3: OVERLAP leaves the slot unwritten. -/
theorem test_packetize_overlap :
    after (exec .packetize (flying .packetize 0x000 0x002 4 [(0, 0x01), (2, 0x02), (3, 0xAA)]))
      (fun t => t.status.word == 0x00000406 && Memory.read t.buf 3 == 0xAA && t.result == 0) = true := by
  decide +kernel

/-- DP-1. -/
theorem test_depacketize_example :
    after (exec .depacketize (flying .depacketize 0x100 0x200 4 w1Packet))
      (fun t => t.memRead 0x200 4 == [0x01, 0x00, 0x02, 0x35] && t.result == 0x35 && t.outLen == 4 &&
        t.status.word == 0x00000002) = true := by decide +kernel

/-- DP-2: the corrupted checksum is reported and the message written all the same. -/
theorem test_depacketize_mismatch :
    after (exec .depacketize (flying .depacketize 0x100 0x200 4 (Memory.write w1Packet 0x105 0x38)))
      (fun t => t.memRead 0x200 4 == [0x01, 0x00, 0x02, 0x38] && t.result == 0x35 && t.outLen == 4 &&
        t.status.word == 0x00000A06) = true := by decide +kernel

/-! ### The codec and the checksum (95_test_vectors.md) -/

theorem test_crc8_check_value :
    crc8 CrcParams.default [0x31, 0x32, 0x33, 0x34, 0x35, 0x36, 0x37, 0x38, 0x39] = 0xDA := by decide +kernel
theorem test_rev8 : rev8 0x35 = 0xAC := by decide +kernel
theorem test_encode_zero_first : cobsEncode [0x00, 0x11] = .ok [0x00, 0x01, 0x02, 0x11] := by rfl
theorem test_encode_too_long :
    fails (cobsEncode (0x00 :: List.replicate 255 0x01)) { code := .runTooLong, pos := 255 } = true := by
  decide +kernel
theorem test_decode_overrun : cobsDecode [0x00, 0x05, 0x01, 0x02] = .error { code := .overrun, pos := 1 } := by rfl
theorem test_decode_zero_code : cobsDecode [0x00, 0x01, 0x00, 0x05] = .error { code := .zeroCode, pos := 2 } := by rfl

/-! ### The step and the host's accesses -/

/-- The step fetches and runs a placed word right after reset. -/
theorem test_step_runs_crc8 :
    after (step (State.reset.withFetchWord 32 1)) (fun t => t.result == 0xFF && t.status.word == 2) = true := by
  decide +kernel
theorem test_step_runs_cobsDec :
    after (step (State.reset.withFetchWord 32 3)) (fun t => t.status.word == 0x206) = true := by decide +kernel

/-- LC-2 and LC-3: an illegal word. -/
theorem test_step_illegal_op :
    after (step (State.reset.withFetchWord 32 7)) (fun t => t.status.word == 0x106) = true := by decide +kernel
theorem test_step_illegal_bits :
    after (step (State.reset.withFetchWord 32 0x10)) (fun t => t.status.word == 0x106) = true := by decide +kernel

/-- P3: a little-endian 32-bit read. -/
theorem test_word_read_little_endian :
    after ((idle 0 0 0 [(0x41, 0x03), (0x42, 0x11), (0x43, 0x22)]).access
        { kind := .read, addr := 0x2040, width := .w32, data := 0 })
      (fun t => t.seen == [0x22110300]) = true := by decide +kernel

/-- LC-11 and LC-13: SRC keeps ADDR_W bits, CTRL one. -/
theorem test_register_fields :
    after (State.reset.writeReg .src 0x00012345) (fun t => t.readReg .src == 0x2345) = true ∧
    after (State.reset.writeReg .ctrl 0xFFFFFFFF) (fun t => t.readReg .ctrl == 1) = true := by decide +kernel

/-- R235: PACKETIZE's slot may not be read while it runs, the rest of its input may. -/
theorem test_slot_read_faults :
    faults ((flying .packetize 0x010 0x100 4 w1Message).access { kind := .read, addr := 0x2013, width := .w8, data := 0 })
      (.windowHazard { kind := .read, addr := 0x2013, width := .w8, data := 0 }) = true ∧
    after ((flying .packetize 0x010 0x100 4 w1Message).access { kind := .read, addr := 0x2012, width := .w8, data := 0 })
      (fun t => t.seen == [2]) = true := by decide +kernel

/-- RS-3: a reset of PK-1 in flight clears STATUS and keeps the message's head. -/
theorem test_reset_abandons :
    (flying .packetize 0x010 0x100 4 w1Message).applyReset.status.word = 0 ∧
    (flying .packetize 0x010 0x100 4 w1Message).applyReset.draws = 7 := by decide +kernel

/-- The tuples of R82. -/
theorem test_notation :
    wr Config.example .len 9 = .bus { kind := .write, addr := 0x1014, width := .w32, data := 9 } ∧
    rb Config.example 0x105 = .bus { kind := .read, addr := 0x2105, width := .w8, data := 0 } := by decide +kernel

/-! ### Witnesses: states that meet the hypotheses of the statements -/

theorem witness_inv_reset : State.reset.Inv := (invCheck_iff _).mp (by decide +kernel)
theorem witness_PowerOnInvariant : Config.legal small = true ∧ Memory.wf [(13, 0xFF)] = true ∧
    Memory.below small.bufSize [(13, 0xFF)] = true := by decide +kernel
theorem witness_StepKeepsInvariant : State.reset.Inv ∧ ∃ t, step State.reset = .next t :=
  ⟨witness_inv_reset, _, rfl⟩
theorem witness_ParametersNeverChange : ∃ t, step (flying .cobsEnc 0 4 2 []) = .next t := ⟨_, rfl⟩

theorem witness_DecodeThenEncode : decode 3 = .ok .cobsDec := by rfl
theorem witness_IllegalCommandWords : (∃ x, decode 0x10 = .error x) ∧ (∃ x, decode 0xF = .error x) ∧
    State.reset.status.busy = false := ⟨⟨_, rfl⟩, ⟨_, rfl⟩, rfl⟩
theorem witness_StepRunsDecodedCommand :
    (flying .crc8 0 0 0 []).turns = [] ∧ (flying .crc8 0 0 0 []).InFlight .crc8 ∧
    ({ State.reset with prog := [.bus (issueOp Config.example (encode .ack))], turns := [.host] } : State).prog.head? =
      some (.bus (issueOp State.reset.cfg (encode .ack))) ∧
    ({ State.reset with turns := [.engine] } : State).turns.head? = some .engine ∧
    ({ State.reset with turns := [.reset] } : State).turns.head? = some .reset := ⟨rfl, ⟨rfl, rfl⟩, rfl, rfl, rfl⟩
theorem witness_IdleHoldsState : State.reset.status.busy = false ∧ State.reset.prog = [] ∧
    State.reset.turns.head? ≠ some .reset := by decide +kernel

theorem witness_ResetAbandonsCommand :
    (flying .packetize 0x010 0x3FC 2 w1Message).Inv ∧
    (flying .packetize 0x010 0x3FC 2 w1Message).active = some .packetize ∧
    (flying .depacketize 0 0x3FF 2 []).active = some .depacketize :=
  ⟨(invCheck_iff _).mp (by decide +kernel), by decide +kernel, by decide +kernel⟩
theorem witness_ResetClearsState : Unwritten .packetize (flying .packetize 0x010 0x100 4 []) 0x106 ∧
    Unwritten .packetize (flying .packetize 0x010 0x100 4 []) 0x012 := by
  unfold Unwritten
  constructor <;> constructor <;> (rintro v ⟨⟩; decide +kernel)

theorem witness_UnmappedOffsetsInert : (0x24 % 4 = 0 ∧ 0x24 ≤ 0x24 ∧ 0x24 ≤ 0xFC) ∧
    0xFC % 4 = 0 ∧ 0x24 ≤ 0xFC := by decide +kernel
theorem witness_StatusWordBits : (0 < 32) ∧ (11 < 32 ∧ 8 ≤ 11) ∧ 31 < 32 := by decide +kernel
theorem witness_OperandRegisterAccess : State.reset.cfg.addrW ≤ 31 := by decide +kernel
theorem witness_InterruptLine : (1 : Word) ≠ 0 ∧ State.reset.status.busy = false ∧
    (∃ t, exec .ack State.reset = .next t) ∧ Instr.crc8 ≠ .ack ∧ ∃ t, exec .crc8 State.reset = .next t :=
  ⟨by decide, rfl, ⟨_, rfl⟩, by decide, ⟨_, rfl⟩⟩

theorem witness_AccessSideEffects :
    (∃ t, State.reset.access { kind := .read, addr := 0x2000, width := .w8, data := 0 } = .next t) ∧
    (route Config.example 0x100C = .reg 0x0C ∧
      ∃ t, State.reset.access { kind := .write, addr := 0x100C, width := .w32, data := 7 } = .next t) ∧
    Memory.wf State.reset.buf = true ∧ route Config.example 0x2003 ≠ .reg 0x00 ∧
      ∃ t, State.reset.access { kind := .write, addr := 0x2003, width := .w8, data := 7 } = .next t :=
  ⟨⟨_, rfl⟩, ⟨rfl, ⟨_, rfl⟩⟩, rfl, by decide, ⟨_, rfl⟩⟩
theorem witness_WordAccessLittleEndian : Config.legal small = true ∧ (8 % 4 = 0 ∧ 8 + 4 ≤ small.bufSize) ∧
    (State.powerOn small []).hazard .read { base := 8, len := 4 } = false ∧
    (State.powerOn small []).hazard .write { base := 8, len := 4 } = false := by decide +kernel
/-- The last byte of BUF, and a byte of a running command's input window, which may be read (R235). -/
theorem witness_ByteAccess : Config.legal small = true ∧ 13 < small.bufSize ∧
    (State.powerOn small []).hazard .write { base := 13, len := 1 } = false ∧
    (flying .packetize 0x010 0x100 4 []).hazard .read { base := 0x012, len := 1 } = false := by decide +kernel
theorem witness_IllFormedAccessesFault : Config.legal small = true ∧ 0xFF < 0x100 ∧ 0x10FF = small.regBase + 0xFF ∧
    15 < (small.bufSize + 3) / 4 * 4 ∧ 0x200F = small.bufBase + 15 := by decide +kernel
theorem witness_InRangeAccessesGoThrough : Config.legal small = true ∧ 0xFC < 0x100 ∧ 0xFC % 4 = 0 ∧
    bufAccessOk small .w8 13 = true ∧ bufAccessOk small .w32 8 = true ∧
    (State.powerOn small []).status.busy = false := by decide +kernel
theorem witness_WindowHazardFaults :
    (flying .packetize 0x010 0x100 4 []).status.busy = true ∧ Config.legal Config.example = true ∧
    bufAccessOk Config.example .w32 0x104 = true ∧
    (flying .packetize 0x010 0x100 4 []).latched = .ok .packetize ∧
    checkLen .packetize (flying .packetize 0x010 0x100 4 []) = none ∧
    checkLen .packetize (flying .packetize 0x010 0x100 0 []) ≠ none ∧
    State.latched (State.reset.accept 7) = .error .reservedOp :=
  ⟨rfl, by decide +kernel, by decide +kernel, rfl, by decide +kernel, by decide +kernel, rfl⟩

theorem witness_AcceptLatchesCommand : State.reset.status.busy = false ∧ (7 : Word) ≠ 0 := by decide +kernel
theorem witness_AckClearsCompletion : State.reset.Inv ∧ State.reset.status.busy = false ∧
    State.reset.status.done = false := ⟨witness_inv_reset, rfl, rfl⟩
theorem witness_BusyIgnoresCmdWrite : (flying .crc8 0 0 0 []).status.busy = true := rfl
theorem witness_CompletionEndsOnce : Instr.depacketize ≠ .ack ∧ (5 : Word) ≠ 0 := by decide +kernel
theorem witness_Crc8Completes :
    (flying .crc8 0x400 0 0 []).Inv ∧ (flying .crc8 0x400 0 0 []).status.busy = true ∧
    1024 < (flying .crc8 0x3FF 0 2 []).lSrc.toNat + (flying .crc8 0x3FF 0 2 []).lLen.toNat :=
  ⟨(invCheck_iff _).mp (by decide +kernel), rfl, by decide +kernel⟩

/-- COBS_ENC: each branch at a boundary (CENC-2, CENC-4, windows one byte into each other, CENC-5). -/
theorem witness_CobsEncCompletes :
    (flying .cobsEnc 0 1 1 [(0, 0x11)]).Inv ∧ (flying .cobsEnc 0 1 1 [(0, 0x11)]).InFlight .cobsEnc ∧
    checks .cobsEnc (flying .cobsEnc 0 1 1 [(0, 0x11)]) = none ∧
    checks .cobsEnc (flying .cobsEnc 0 0x3FE 1 []) = some .bounds ∧
    checks .cobsEnc (flying .cobsEnc 0 3 4 []) = some .overlap ∧
    (flying .cobsEnc 0 0x200 255 (ones 0 255)).Inv :=
  ⟨(invCheck_iff _).mp (by decide +kernel), ⟨rfl, rfl⟩, by decide +kernel, by decide +kernel, by decide +kernel,
    (invCheck_iff _).mp (by decide +kernel)⟩
/-- COBS_DEC: each branch at a boundary (CDEC-3, CDEC-5, CDEC-6, CDEC-2). -/
theorem witness_CobsDecCompletes :
    (flying .cobsDec 0 0x400 2 [(1, 0x01)]).Inv ∧ (flying .cobsDec 0 0x400 2 [(1, 0x01)]).InFlight .cobsDec ∧
    checks .cobsDec (flying .cobsDec 0 0x400 2 []) = none ∧
    checks .cobsDec (flying .cobsDec 0 0x100 1 []) = some .badLength ∧
    checks .cobsDec (flying .cobsDec 0 0x401 2 []) = some .bounds ∧
    checks .cobsDec (flying .cobsDec 0 2 3 []) = some .overlap ∧
    (flying .cobsDec 0x300 0x310 4 [(0x301, 0x03), (0x302, 0x11)]).Inv :=
  ⟨(invCheck_iff _).mp (by decide +kernel), ⟨rfl, rfl⟩, by decide +kernel, by decide +kernel, by decide +kernel,
    by decide +kernel, (invCheck_iff _).mp (by decide +kernel)⟩
/-- PACKETIZE: each branch at a boundary (PK-4, PK-5, PK-6, PK-3, PK-2). -/
theorem witness_PacketizeCompletes :
    (flying .packetize 0x3FC 0 4 []).Inv ∧ (flying .packetize 0x3FC 0 4 []).InFlight .packetize ∧
    checks .packetize (flying .packetize 0x3FC 0 4 []) = none ∧
    checks .packetize (flying .packetize 0 0x100 0 []) = some .badLength ∧
    checks .packetize (flying .packetize 0 0x3FC 4 []) = some .bounds ∧
    checks .packetize (flying .packetize 0 2 4 []) = some .overlap ∧
    (flying .packetize 0 0x200 256 (ones 0 255)).Inv :=
  ⟨(invCheck_iff _).mp (by decide +kernel), ⟨rfl, rfl⟩, by decide +kernel, by decide +kernel, by decide +kernel,
    by decide +kernel, (invCheck_iff _).mp (by decide +kernel)⟩
/-- DEPACKETIZE: each branch at a boundary (DP-5, DP-4, DP-3, DP-1, DP-2). -/
theorem witness_DepacketizeCompletes :
    (flying .depacketize 0x100 0x3FC 4 w1Packet).Inv ∧
    (flying .depacketize 0x100 0x3FC 4 w1Packet).InFlight .depacketize ∧
    checks .depacketize (flying .depacketize 0x100 0x3FC 4 w1Packet) = none ∧
    checks .depacketize (flying .depacketize 0 0x100 0 []) = some .badLength ∧
    checks .depacketize (flying .depacketize 0x3FC 0 4 []) = some .bounds ∧
    checks .depacketize (flying .depacketize 0 5 4 []) = some .overlap ∧
    (flying .depacketize 0x100 0x200 4 (Memory.write w1Packet 0x105 0x38)).Inv :=
  ⟨(invCheck_iff _).mp (by decide +kernel), ⟨rfl, rfl⟩, by decide +kernel, by decide +kernel, by decide +kernel,
    by decide +kernel, (invCheck_iff _).mp (by decide +kernel)⟩

theorem witness_CommandFrame : (∃ t, exec .packetize (flying .packetize 0x010 0x100 4 w1Message) = .next t) ∧
    Unwritten .packetize (flying .packetize 0x010 0x100 4 w1Message) 0x0FF := by
  refine ⟨⟨_, rfl⟩, ?_⟩
  unfold Unwritten
  constructor <;> (rintro v ⟨⟩; decide +kernel)
theorem witness_ResultRegisterFrame : (∃ t, exec .ack State.reset = .next t) ∧
    (∃ t, exec .crc8 State.reset = .next t) ∧ (∃ t, exec .cobsEnc State.reset = .next t) ∧
    (∃ t, exec .cobsDec State.reset = .next t) ∧ checks .packetize State.reset = some .badLength :=
  ⟨⟨_, rfl⟩, ⟨_, rfl⟩, ⟨_, rfl⟩, ⟨_, rfl⟩, by decide +kernel⟩
/-- Two states that agree on the input window and differ elsewhere in BUF and in SRC. -/
theorem witness_ResultsDependOnlyOnOperands :
    Memory.wf w1Packet = true ∧ Memory.wf (Memory.write w1Packet 0x106 9) = true ∧
    inWindow .depacketize (flying .depacketize 0x100 0x200 4 w1Packet) = some { base := 0x100, len := 6 } ∧
    Memory.readBytes w1Packet 0x100 6 = Memory.readBytes (Memory.write w1Packet 0x106 9) 0x100 6 := by decide +kernel
theorem witness_BusyResultsReadZero : (flying .crc8 0 0 0 []).Inv ∧ (flying .crc8 0 0 0 []).status.busy = true :=
  ⟨(invCheck_iff _).mp (by decide +kernel), rfl⟩
theorem witness_OperandWritesWhileBusy : (flying .packetize 0x010 0x100 4 []).status.busy = true := rfl
theorem witness_WaitLoopEnds :
    ({ flying .crc8 0 0 0 [] with prog := [.wait], turns := List.replicate 1 .host ++ [.engine, .host] } : State).Inv ∧
    ({ flying .crc8 0 0 0 [] with prog := [.wait], turns := [] } : State).Inv :=
  ⟨(invCheck_iff _).mp (by decide +kernel), (invCheck_iff _).mp (by decide +kernel)⟩

theorem witness_EncodeLength : cobsEncode [0x11, 0x00] = .ok [0x00, 0x02, 0x11, 0x01] := by rfl
theorem witness_EncodeZeroFree : cobsEncode [] = .ok [0x00, 0x01] := by rfl
theorem replicate_getD_ne_zero (n k : Nat) (h : k < n) : (List.replicate n (0x01 : Byte)).getD k 0 ≠ 0 := by
  simp [List.getD, h]
theorem witness_EncodeRunLimit :
    fails (cobsEncode (List.replicate 255 0x01)) { code := .runTooLong, pos := 254 } = true ∧
    LongRunAt (List.replicate 255 0x01) 0 := by
  refine ⟨by decide +kernel, ?_, fun k hk => ?_⟩
  · rw [List.length_replicate]
  · rw [Nat.zero_add]
    exact replicate_getD_ne_zero 255 k hk
theorem witness_DecodeLength : cobsDecode [0x00, 0x01] = .ok [] := by rfl
theorem witness_DecodeAcceptsGrammar : Encoded [0x00, 0x01, 0x02, 0x11] :=
  ⟨_, .more [] [0x02, 0x11] (by decide) (by decide) (.last [0x11] (by decide) (by decide)), rfl⟩
theorem witness_DecodeBlockMeaning : (List.replicate 254 (0x01 : Byte)).length ≤ 254 ∧
    (∀ b ∈ List.replicate 254 (0x01 : Byte), b ≠ 0) ∧ cobsDecode [0x00, 0x01] = .ok [] := by
  refine ⟨by rw [List.length_replicate], fun b hb => ?_, rfl⟩
  rw [List.eq_of_mem_replicate hb]
  decide
theorem witness_DecodeFailurePositions :
    cobsDecode [0x01, 0x01] = .error { code := .noDelimiter, pos := 0 } ∧
    cobsDecode [0x00, 0x00] = .error { code := .zeroCode, pos := 1 } ∧
    cobsDecode [0x00, 0x03, 0x11] = .error { code := .overrun, pos := 1 } ∧
    cobsDecode [0x00, 0x02, 0x00, 0x01] = .error { code := .interiorZero, pos := 2 } := ⟨rfl, rfl, rfl, rfl⟩
theorem witness_CobsInverse : cobsDecode [0x00, 0x02, 0x11, 0x01] = .ok [0x11, 0x00] ∧ ∀ a, ¬LongRunAt [0x11, 0x00] a := by
  refine ⟨rfl, fun a h => ?_⟩
  have := h.1
  simp at this
theorem witness_CrcZeroResidue : CrcParams.default.refin = false ∧ CrcParams.default.refout = false ∧
    CrcParams.default.xorout = 0 ∧ CrcParams.default.legal = true := by decide +kernel
theorem witness_CrcSingleByteDetection : CrcParams.default.poly.getLsbD 0 = true ∧
    CrcParams.default.refin = CrcParams.default.refout ∧ (0x35 : Byte) ≠ 0x38 := by decide +kernel
theorem witness_PacketShape : packet CrcParams.default [0x00, 0xAA] = .ok [0x00, 0x01, 0x02, 0x7B] := by rfl
/-- PK-1 and then DP-1. -/
theorem witness_PacketRoundTrip :
    (flying .packetize 0x010 0x100 4 w1Message).Inv ∧
    (flying .packetize 0x010 0x100 4 w1Message).InFlight .packetize ∧
    checks .packetize (flying .packetize 0x010 0x100 4 w1Message) = none ∧
    (flying .depacketize 0x100 0x200 4 (w1Message.dropLast ++ (0x13, 0x35) :: w1Packet)).Inv ∧
    checks .depacketize (flying .depacketize 0x100 0x200 4 (w1Message.dropLast ++ (0x13, 0x35) :: w1Packet)) = none ∧
    after (exec .packetize (flying .packetize 0x010 0x100 4 w1Message))
      (fun t => t.buf == w1Message.dropLast ++ (0x13, 0x35) :: w1Packet) = true :=
  ⟨(invCheck_iff _).mp (by decide +kernel), ⟨rfl, rfl⟩, by decide +kernel, (invCheck_iff _).mp (by decide +kernel),
    by decide +kernel, by decide +kernel⟩
/-- W1's packet: index 2 is a literal, index 3 a code byte, index 5 the checksum; decoding it ends well. -/
theorem witness_SingleByteCorruption :
    (flying .depacketize 0x100 0x200 4 w1Packet).Inv ∧
    (flying .depacketize 0x100 0x200 4 w1Packet).InFlight .depacketize ∧
    after (exec .depacketize (flying .depacketize 0x100 0x200 4 w1Packet)) (fun t => !t.status.err) = true ∧
    literalAt (Memory.readBytes w1Packet 0x100 6) 2 = true ∧
    literalAt (Memory.readBytes w1Packet 0x100 6) 3 = false ∧
    literalAt (Memory.readBytes w1Packet 0x100 6) 5 = true :=
  ⟨(invCheck_iff _).mp (by decide +kernel), ⟨rfl, rfl⟩, by decide +kernel, by decide +kernel, by decide +kernel,
    by decide +kernel⟩

end Sys2Proof.Tests
end

section
/-! PROOF. The state of the block: what each register access does, what reset and power-on leave, how every command
ends and which fields it touches, and that its results depend on its operands and input window only. -/

namespace Sys2Proof.Machine

/-! ### The register window -/

/-- An offset below 0x100 falls in the register window, wherever the buffer window stands (R56). -/
theorem route_regBase_add (c : Config) {off : Nat} (h : off < 0x100) :
    route c (c.regBase + off) = .reg off := by
  rw [route, if_pos (by omega), Nat.add_sub_cancel_left]

/-- The register map of R22 is the inverse of the offset column. -/
theorem regAt_eq_some_iff {off : Nat} {r : Reg} : regAt off = some r ↔ off = r.offset := by
  constructor
  · intro h
    unfold regAt at h
    split at h <;> cases h <;> rfl
  · rintro rfl
    cases r <;> rfl

/-- No register stands past ERRPOS (R36). -/
theorem regAt_eq_none_of_le {off : Nat} (h : 0x24 ≤ off) : regAt off = none := by
  refine Option.eq_none_iff_forall_ne_some.mpr fun r hr => ?_
  have hoff := regAt_eq_some_iff.mp hr
  cases r <;> simp only [Reg.offset] at hoff <;> omega

/-- A 32-bit access at an offset below 0x100 follows the register window's own rule (R54, R56). -/
theorem access_regBase_add (s : State) (k : Kind) {off : Nat} (w : Word) (h : off < 0x100) :
    s.access { kind := k, addr := s.cfg.regBase + off, width := .w32, data := w } =
      s.regAccess { kind := k, addr := s.cfg.regBase + off, width := .w32, data := w } off := by
  simp only [State.access, route_regBase_add s.cfg h]

theorem Reg.offset_lt (r : Reg) : r.offset < 0x100 := by cases r <;> decide

/-- A 32-bit read of a register returns it and does nothing else (R55). -/
theorem access_read_reg (s : State) (r : Reg) (w : Word) :
    s.access { kind := .read, addr := s.cfg.regBase + r.offset, width := .w32, data := w } =
      .next (s.see (s.readReg r)) := by
  rw [access_regBase_add s .read w r.offset_lt]
  cases r <;> rfl

/-- A 32-bit write of a register is that register's write. -/
theorem access_write_reg (s : State) (r : Reg) (w : Word) :
    s.access { kind := .write, addr := s.cfg.regBase + r.offset, width := .w32, data := w } =
      s.writeReg r w := by
  rw [access_regBase_add s .write w r.offset_lt]
  cases r <;> rfl

/-- The access that issues a command word is the write of CMD (R81). -/
theorem access_issueOp (s : State) (w : Word) : s.access (issueOp s.cfg w) = s.writeCmd w :=
  access_write_reg s .cmd w

/-- While BUSY is 0, a word other than ACK is accepted (R101). -/
theorem writeCmd_of_idle {s : State} {w : Word} (hb : s.status.busy = false) (hw : w ≠ 0) :
    s.writeCmd w = .next (s.accept w) := by
  rw [State.writeCmd, if_neg (by simp [hb]), if_neg hw]

/-! ### The statements about single registers -/

/-- A one-bit field moved to position j has its value at bit j, and 0 elsewhere (R8). -/
theorem getLsbD_bitField (b : Bool) (j : Nat) {k : Nat} (hk : k < 32) :
    ((BitVec.ofBool b).setWidth 32 <<< j).getLsbD k = (decide (k = j) && b) := by
  simp only [BitVec.getLsbD_shiftLeft, BitVec.getLsbD_setWidth, BitVec.getLsbD_ofBool]
  rcases Nat.lt_or_ge k j with h | h
  · simp [h, h.ne]
  · simp [hk, show ¬ k < j by omega, show k - j < 32 by omega, show k - j = 0 ↔ k = j by omega]

/-- A STATUS bit by position: the word is four fields side by side (R24 to R28). -/
theorem getLsbD_statusWord (t : Status) {k : Nat} (hk : k < 32) :
    t.word.getLsbD k =
      if k = 0 then t.busy else if k = 1 then t.done else if k = 2 then t.err
      else if 8 ≤ k ∧ k < 12 then t.ecode.getLsbD (k - 8) else false := by
  have hbusy := getLsbD_bitField t.busy 0 hk
  have hecode : 12 ≤ k → t.ecode.getLsbD (k - 8) = false := fun h => BitVec.getLsbD_of_ge _ _ (by omega)
  rw [BitVec.shiftLeft_zero] at hbusy
  simp only [Status.word, BitVec.getLsbD_or, hbusy, getLsbD_bitField _ _ hk, BitVec.getLsbD_shiftLeft,
    BitVec.getLsbD_setWidth]
  split_ifs with h0 h1 h2 h8
  · simp [h0]
  · simp [h1]
  · simp [h2]
  · simp [h0, h1, h2, hk, show k - 8 < 32 by omega, show ¬ k < 8 by omega]
  · simp only [h0, h1, h2, decide_false, Bool.false_and, Bool.false_or]
    by_cases hlow : k < 8
    · simp [hlow]
    · simp [hecode (by omega)]

/-- Settles O10: the bits by position; STATUS ignores writes and its read only returns the word. -/
theorem statusWordBits : Obligations.StatusWordBits :=
  ⟨fun t _ hk => getLsbD_statusWord t hk,
    fun s w => ⟨access_write_reg s .status w, access_read_reg s .status w⟩⟩

/-- Settles O11: no register stands at these offsets. -/
theorem unmappedOffsetsInert : Obligations.UnmappedOffsetsInert := by
  intro s off w hal hlo hhi
  have hnone : regAt off = none := regAt_eq_none_of_le hlo
  constructor <;> rw [access_regBase_add s _ w (by omega)] <;>
    simp [State.regAccess, regAccessOk, hal, hnone]

/-- Settles O12: a write keeps the low ADDR_W bits in the one register. -/
theorem operandRegisterAccess : Obligations.OperandRegisterAccess := by
  intro s w hw
  refine ⟨⟨rfl, rfl, rfl⟩, ⟨keepBits s.cfg.addrW w.toNat, keepBits_toNat _ (by omega), ?_, ?_, ?_⟩, ?_, ?_, ?_⟩
  · exact access_write_reg s .src w
  · exact access_write_reg s .dst w
  · exact access_write_reg s .len w
  · exact access_read_reg s .src w
  · exact access_read_reg s .dst w
  · exact access_read_reg s .len w

/-- Settles O13: CTRL is one bit. -/
theorem ctrlRegisterAccess : Obligations.CtrlRegisterAccess := by
  intro s w
  have hread : s.readReg .ctrl = if s.irqEn then 1 else 0 := by
    cases h : s.irqEn <;> simp [State.readReg, h]
  refine ⟨rfl, access_write_reg s .ctrl w, ?_⟩
  rw [← hread]
  exact access_read_reg s .ctrl w

/-- Settles O14: CMD reads 0, and the three result registers have reads only. -/
theorem resultRegisterAccess : Obligations.ResultRegisterAccess := fun s w =>
  ⟨access_read_reg s .cmd w, access_read_reg s .result w, access_read_reg s .outLen w,
    access_read_reg s .errPos w, access_write_reg s .result w, access_write_reg s .outLen w,
    access_write_reg s .errPos w⟩

/-! ### Reset -/

/-- An address outside a window stands before its first byte or past its last. -/
theorem Window.has_eq_false_iff {w : Window} {a : Nat} : w.has a = false ↔ a < w.base ∨ w.top ≤ a := by
  rw [Window.has, Bool.and_eq_false_iff, decide_eq_false_iff_not, decide_eq_false_iff_not, Nat.not_le, Nat.not_lt]

/-- What a reset makes of a window leaves every byte outside it alone (R231). -/
theorem read_clobber_of_not_has {s : State} {w : Option Window} {a : Nat}
    (h : ∀ v, w = some v → v.has a = false) : Memory.read (s.clobber w).buf a = Memory.read s.buf a := by
  cases w with
  | none => rfl
  | some v =>
    have hout : a < v.base ∨ v.base + v.len ≤ a := Window.has_eq_false_iff.mp (h v rfl)
    refine Memory.read_writeBytes_outside _ _ ?_
    rw [freeBytes_length]
    exact hout.imp_right fun hle => le_trans (Nat.add_le_add_left (Nat.min_le_left _ _) _) hle

/-- A reset changes no byte outside the written windows of the command in flight (R231). -/
theorem read_abandon_of_unwritten {s : State} {a : Nat} (h : ∀ i, s.active = some i → Unwritten i s a) :
    Memory.read s.abandon.buf a = Memory.read s.buf a := by
  unfold State.abandon
  split
  · next i hi =>
    obtain ⟨hout, hslot⟩ := h i hi
    rw [read_clobber_of_not_has hslot, read_clobber_of_not_has hout]
  · rfl

/-- Every register reads 0 in a state whose fields are as R44 resets them. -/
theorem readReg_initial (cfg : Config) (buf : List Host.Cell) (draws : Nat) (r : Reg) :
    (State.initial cfg buf draws).readReg r = 0 := by
  cases r with
  | status => exact (by decide : Status.idle.word = 0)
  | cmd | ctrl | src | dst | len | result | outLen | errPos => rfl

/-- What the reset event keeps of the host's side is seen in no register. -/
theorem readReg_applyReset (s : State) (r : Reg) : s.applyReset.readReg r = 0 := by
  rw [← readReg_initial s.cfg s.abandon.buf s.abandon.draws r]
  cases r <;> rfl

/-- Settles O8: R44's fields by definition, and BUF by what the reset makes of the two windows. -/
theorem resetClearsState : Obligations.ResetClearsState := by
  refine ⟨?_, ?_⟩
  · rintro s t rfl
    exact ⟨readReg_applyReset s, rfl, rfl, rfl, rfl, rfl, rfl, rfl, rfl, rfl, rfl,
      fun a h => read_abandon_of_unwritten h⟩
  · rintro cfg buf t rfl
    exact ⟨readReg_initial cfg buf 0, rfl, rfl, rfl, rfl, rfl, rfl, rfl, rfl, rfl, rfl⟩

/-- A canonical buffer at power-on under legal parameters satisfies the invariant (R232). -/
theorem inv_powerOn {cfg : Config} {buf : List Host.Cell} (hcfg : cfg.legal = true)
    (hwf : Memory.wf buf = true) (hbelow : Memory.below cfg.bufSize buf = true) :
    (State.powerOn cfg buf).Inv where
  cfgLegal := hcfg
  bufWf := hwf
  bufBelow := hbelow
  srcFits := Nat.two_pow_pos _
  dstFits := Nat.two_pow_pos _
  lenFits := Nat.two_pow_pos _
  outLenFits := Nat.two_pow_pos _
  errPosFits := Nat.two_pow_pos _
  lSrcFits := Nat.two_pow_pos _
  lDstFits := Nat.two_pow_pos _
  lLenFits := Nat.two_pow_pos _
  opLatched := rfl
  ecodeKnown := Nat.zero_le _
  errCode := by simp [State.powerOn, State.initial, Status.idle]
  errDone := nofun
  busyDone := nofun
  busyClear := nofun
  busyWord := nofun

/-- Settles O38: the reset state is a power-on under R6's example parameters. -/
theorem powerOnInvariant : Obligations.PowerOnInvariant :=
  ⟨inv_powerOn (by decide +kernel) rfl rfl, fun _ _ => inv_powerOn⟩

/-! ### The codec: lengths and errors -/

/-- The scan of R141 appends one code byte more than it has bytes to place. -/
theorem cobsScan_length {i : Nat} {run d out : List Byte} (h : cobsScan i run d = .ok out) :
    out.length = run.length + d.length + 1 := by
  induction d generalizing i run out with
  | nil =>
    cases h
    simp [cobsBlock]
  | cons b d ih =>
    unfold cobsScan at h
    split at h
    · split at h
      · next rest hrest =>
        cases h
        simp [cobsBlock, ih hrest, Nat.add_assoc]
      · cases h
    · split at h
      · cases h
      · simp [ih h]
        omega

/-- An encoding is the delimiter and one code byte longer than its input (R143). -/
theorem cobsEncode_length {d e : List Byte} (h : cobsEncode d = .ok e) : e.length = d.length + 2 := by
  unfold cobsEncode at h
  split at h
  · next out hout =>
    cases h
    simp [cobsScan_length hout]
  · cases h

/-- The scan of R141 fails with RUN_TOO_LONG only. -/
theorem cobsScan_error {i : Nat} {run d : List Byte} {x : Failure} (h : cobsScan i run d = .error x) :
    x.code = .runTooLong := by
  induction d generalizing i run with
  | nil => cases h
  | cons b d ih =>
    unfold cobsScan at h
    split at h
    · split at h
      · cases h
      · next hrest =>
        cases h
        exact ih hrest
    · split at h
      · cases h
        rfl
      · exact ih h

theorem cobsEncode_error {d : List Byte} {x : Failure} (h : cobsEncode d = .error x) : x.code = .runTooLong := by
  unfold cobsEncode at h
  split at h
  · cases h
  · next hscan =>
    cases h
    exact cobsScan_error hscan

/-- The loop of R160 gives one byte for each byte it reads: a literal, or a zero for a block's code byte. -/
theorem cobsBlocks_length {p k : Nat} {e out : List Byte} (h : cobsBlocks p k e = .ok out) :
    out.length = e.length := by
  induction e generalizing p k out with
  | nil =>
    cases k <;> cases h <;> rfl
  | cons b e ih =>
    cases k with
    | zero =>
      unfold cobsBlocks at h
      split at h
      · cases h
      · split at h
        · next hrest =>
          cases h
          simp [ih hrest]
        · cases h
    | succ k =>
      unfold cobsBlocks at h
      split at h
      · cases h
      · split at h
        · next hrest =>
          cases h
          simp [ih hrest]
        · cases h

/-- A decoding leaves out the delimiter and the first code byte (R163). -/
theorem cobsDecode_length {e r : List Byte} (h : cobsDecode e = .ok r) : e.length = r.length + 2 := by
  unfold cobsDecode at h
  split at h
  · split at h
    · cases h
    · split at h
      · cases h
      · simp [cobsBlocks_length h]
  · cases h

/-- The errors the codec can answer (R140, R160); BAD_LENGTH stands for a sequence no command decodes (log
entry 13). -/
def codecErrors : List ErrCode := [.badLength, .runTooLong, .noDelimiter, .zeroCode, .overrun, .interiorZero]

theorem codeCheck_error {p left : Nat} {C : Byte} {x : Failure} (h : codeCheck p C left = some x) :
    x.code ∈ codecErrors := by
  unfold codeCheck at h
  split at h
  · cases h
    simp [codecErrors]
  · split at h <;> cases h
    simp [codecErrors]

theorem cobsBlocks_error {p k : Nat} {e : List Byte} {x : Failure} (h : cobsBlocks p k e = .error x) :
    x.code ∈ codecErrors := by
  induction e generalizing p k with
  | nil => cases k <;> cases h
  | cons b e ih =>
    cases k with
    | zero =>
      unfold cobsBlocks at h
      split at h
      · next hcheck =>
        cases h
        exact codeCheck_error hcheck
      · split at h
        · cases h
        · next hrest =>
          cases h
          exact ih hrest
    | succ k =>
      unfold cobsBlocks at h
      split at h
      · cases h
        simp [codecErrors]
      · split at h
        · cases h
        · next hrest =>
          cases h
          exact ih hrest

theorem cobsDecode_error {e : List Byte} {x : Failure} (h : cobsDecode e = .error x) : x.code ∈ codecErrors := by
  unfold cobsDecode at h
  split at h
  · split at h
    · cases h
      decide
    · split at h
      · next hcheck =>
        cases h
        exact codeCheck_error hcheck
      · exact cobsBlocks_error h
  · cases h
    decide

/-! ### How a command ends -/

/-- The errors the checks can find (R106 to R108). -/
def checkErrors : List ErrCode := [.badLength, .bounds, .overlap]

theorem checkLen_error {i : Instr} {s : State} {e : ErrCode} (h : checkLen i s = some e) : e = .badLength := by
  cases i with
  | ack | crc8 | cobsEnc => cases h
  | cobsDec | packetize | depacketize =>
    simp only [checkLen, Option.ite_none_right_eq_some] at h
    exact (Option.some.inj h.2).symm

theorem checkBounds_error {i : Instr} {s : State} {e : ErrCode} (h : checkBounds i s = some e) : e = .bounds := by
  unfold checkBounds at h
  split at h <;> cases h
  rfl

theorem checkOverlap_error {i : Instr} {s : State} {e : ErrCode} (h : checkOverlap i s = some e) :
    e = .overlap := by
  unfold checkOverlap at h
  split at h
  · split at h <;> cases h
    rfl
  · cases h

theorem checks_error {i : Instr} {s : State} {e : ErrCode} (h : checks i s = some e) : e ∈ checkErrors := by
  unfold checks at h
  split at h
  · next hlen =>
    cases h
    simp [checkErrors, checkLen_error hlen]
  · split at h
    · next hbounds =>
      cases h
      simp [checkErrors, checkBounds_error hbounds]
    · simp [checkErrors, checkOverlap_error h]

/-- What exec of a command does once its checks have passed (R111); ACK has none. -/
def afterChecks (i : Instr) (s : State) : State :=
  match i with
  | .ack         => { s with status := s.status.acked }
  | .crc8        => bodyCrc8 s
  | .cobsEnc     => bodyCobsEnc s
  | .cobsDec     => bodyCobsDec s
  | .packetize   => bodyPacketize s
  | .depacketize => bodyDepacketize s

/-- exec of every command is its checks and then its own effect. -/
theorem exec_eq_checked (i : Instr) (s : State) : exec i s = .next (s.checked i (afterChecks i)) := by
  cases i <;> rfl

/-- What exec can do: raise the first failed check, or have the command's own effect (R111). -/
theorem exec_cases {i : Instr} {s t : State} (h : exec i s = .next t) :
    (∃ e, checks i s = some e ∧ t = s.raise { code := e, pos := 0 }) ∨
      (checks i s = none ∧ t = afterChecks i s) := by
  rw [exec_eq_checked] at h
  cases h
  exact checked_cases s i (afterChecks i)

/-- The end of DEPACKETIZE (R182) in either case of its comparison: message, OUTLEN and RESULT are written, and
only STATUS and ERRPOS differ. -/
theorem judge_cases (s : State) (r : List Byte) :
    ∃ c, s.judge r = (((s.memWrite s.dstN r).setOutLen s.lenN).setResult c).complete ∨
      s.judge r = (((s.memWrite s.dstN r).setOutLen s.lenN).setResult c).raise { code := .crcMismatch, pos := 0 } := by
  refine ⟨crc8 s.cfg.crc (r.take (s.lenN - 1)), ?_⟩
  simp only [State.judge]
  split
  · exact .inl rfl
  · exact .inr rfl

/-- How a computing command ends once its checks have passed: well or with CRC_MISMATCH, and then it has drawn no
free byte (R204), or with an error of the codec. -/
def EndsAfterChecks (s t : State) : Prop :=
  ((t.status = Status.completed ∨ t.status = Status.raised .crcMismatch) ∧ t.draws = s.draws) ∨
    ∃ e ∈ codecErrors, t.status = Status.raised e

theorem deliver_ends {s : State} {a n : Nat} {r : Except Failure (List Byte)}
    (hr : ∀ x, r = .error x → x.code ∈ codecErrors) : EndsAfterChecks s (s.deliver a n r) := by
  obtain ⟨x, hx, ht⟩ | ⟨d, -, ht⟩ := deliver_cases s a n r
  · exact .inr ⟨x.code, hr x hx, by rw [ht]; rfl⟩
  · exact .inl ⟨.inl (by rw [ht]; rfl), by rw [ht]; rfl⟩

theorem encode_error_mem {d : List Byte} {x : Failure} (h : cobsEncode d = .error x) : x.code ∈ codecErrors := by
  simp [cobsEncode_error h, codecErrors]

theorem judge_ends (s : State) (r : List Byte) : EndsAfterChecks s (s.judge r) := by
  obtain ⟨c, ht | ht⟩ := judge_cases s r <;> rw [ht]
  · exact .inl ⟨.inl rfl, rfl⟩
  · exact .inl ⟨.inr rfl, rfl⟩

theorem afterChecks_ends {i : Instr} (hi : i ≠ .ack) (s : State) : EndsAfterChecks s (afterChecks i s) := by
  cases i with
  | ack => exact absurd rfl hi
  | crc8 => exact .inl ⟨.inl rfl, rfl⟩
  | cobsEnc => exact deliver_ends fun _ => encode_error_mem
  | cobsDec => exact deliver_ends fun _ => cobsDecode_error
  | packetize => exact deliver_ends (s := (s.memWrite _ _).setResult _) fun _ => encode_error_mem
  | depacketize =>
    simp only [afterChecks, bodyDepacketize]
    split
    · next x hx => exact .inr ⟨x.code, cobsDecode_error hx, rfl⟩
    · exact judge_ends s _

/-- A computing command completes, or raises one error of the checks, the codec or the checksum. -/
theorem exec_status {i : Instr} (hi : i ≠ .ack) {s t : State} (h : exec i s = .next t) :
    t.status = Status.completed ∨ ∃ e, e ≠ .illegalOp ∧ t.status = Status.raised e := by
  have hknown : ∀ e ∈ .crcMismatch :: checkErrors ++ codecErrors, e ≠ .illegalOp := by decide
  obtain ⟨e, he, rfl⟩ | ⟨-, rfl⟩ := exec_cases h
  · exact .inr ⟨e, hknown e (by simp [checks_error he]), rfl⟩
  · obtain ⟨hok | hcrc, -⟩ | ⟨e, he, hst⟩ := afterChecks_ends hi s
    · exact .inl hok
    · exact .inr ⟨_, hknown _ (by simp), hcrc⟩
    · exact .inr ⟨e, hknown e (by simp [he]), hst⟩

/-- Settles O25: STATUS ends without error or with one known code, BUSY 0 either way. -/
theorem completionEndsOnce : Obligations.CompletionEndsOnce := by
  refine fun s => ⟨fun i hi => ⟨s.checked i (afterChecks i), exec_eq_checked i s, ?_⟩, rfl⟩
  have hend := exec_status hi (exec_eq_checked i s)
  have hidle : (s.checked i (afterChecks i)).status.busy = false := by
    obtain hok | ⟨e, -, herr⟩ := hend
    · rw [hok]; rfl
    · rw [herr]; rfl
  refine ⟨hend, fun w hw => ⟨_, (access_issueOp _ w).trans (writeCmd_of_idle hidle hw), rfl, rfl⟩⟩

/-! ### Which fields a command leaves alone -/

/-- No end of the codec touches RESULT (R33). -/
theorem deliver_result (s : State) (a n : Nat) (r : Except Failure (List Byte)) :
    (s.deliver a n r).result = s.result := by
  cases r <;> rfl

/-- Without an error, or with CRC_MISMATCH, no byte became unspecified (R204). -/
theorem exec_draws {i : Instr} {s t : State} (h : exec i s = .next t)
    (hst : t.status.err = false ∨ t.status.ecode = 10) : t.draws = s.draws := by
  have hcodec : ∀ e ∈ codecErrors, ¬ ((Status.raised e).err = false ∨ (Status.raised e).ecode = 10) := by decide
  obtain ⟨e, -, rfl⟩ | ⟨-, rfl⟩ := exec_cases h
  · rfl
  · by_cases hi : i = .ack
    · subst hi
      rfl
    · obtain ⟨-, hdraws⟩ | ⟨e, he, hraised⟩ := afterChecks_ends hi s
      · exact hdraws
      · exact absurd (hraised ▸ hst) (hcodec e he)

/-- Settles O32: each command by its two ends, a failed check or its own effect. -/
theorem resultRegisterFrame : Obligations.ResultRegisterFrame := by
  refine fun s t => ⟨?_, ?_, ?_, fun i => exec_draws, ?_⟩
  · intro h
    cases h
    exact ⟨rfl, rfl, rfl, rfl, rfl⟩
  · intro h
    obtain ⟨e, -, rfl⟩ | ⟨-, rfl⟩ := exec_cases h <;> exact ⟨rfl, rfl, rfl⟩
  · rintro (h | h) <;> obtain ⟨e, -, rfl⟩ | ⟨-, rfl⟩ := exec_cases h
    · rfl
    · exact deliver_result s _ _ _
    · rfl
    · exact deliver_result s _ _ _
  · intro i e he h
    obtain ⟨e', -, rfl⟩ | ⟨hnone, -⟩ := exec_cases h
    · exact ⟨rfl, rfl, rfl, rfl⟩
    · simp [he] at hnone

/-! ### Two runs that share what R41 lets a result depend on -/

/-- The parameters, the latched operands, the draw count and the result registers are the same, and both buffers
are canonical. The buffers' bytes, STATUS and the host's side may differ. -/
structure Alike (s s' : State) : Prop where
  cfg    : s.cfg = s'.cfg
  lSrc   : s.lSrc = s'.lSrc
  lDst   : s.lDst = s'.lDst
  lLen   : s.lLen = s'.lLen
  draws  : s.draws = s'.draws
  result : s.result = s'.result
  outLen : s.outLen = s'.outLen
  errPos : s.errPos = s'.errPos
  wf     : Memory.wf s.buf = true
  wf'    : Memory.wf s'.buf = true

/-- Two runs that also ended with the same STATUS. -/
structure EndAlike (t t' : State) : Prop extends Alike t t' where
  status : t.status = t'.status

section
variable {s s' : State} (h : Alike s s')
include h

theorem Alike.srcN : s.srcN = s'.srcN := congrArg BitVec.toNat h.lSrc
theorem Alike.dstN : s.dstN = s'.dstN := congrArg BitVec.toNat h.lDst
theorem Alike.lenN : s.lenN = s'.lenN := congrArg BitVec.toNat h.lLen

theorem Alike.inWindow_eq (i : Instr) : inWindow i s = inWindow i s' := by
  cases i <;> simp only [inWindow, h.srcN, h.lenN]

theorem Alike.outWindow_eq (i : Instr) : outWindow i s = outWindow i s' := by
  cases i <;> simp only [outWindow, h.dstN, h.lenN]

theorem Alike.checks_eq (i : Instr) : checks i s = checks i s' := by
  have hlen : checkLen i s = checkLen i s' := by cases i <;> simp only [checkLen, h.lenN]
  have hend (w : Option Window) : pastEnd s w = pastEnd s' w := by cases w <;> simp only [pastEnd, h.cfg]
  simp only [checks, checkBounds, checkOverlap, hlen, hend, h.inWindow_eq, h.outWindow_eq]

theorem Alike.memWrite (a : Nat) (d : List Byte) : Alike (s.memWrite a d) (s'.memWrite a d) :=
  { h with wf := Memory.wf_writeBytes a d h.wf, wf' := Memory.wf_writeBytes a d h.wf' }

theorem Alike.unspecified (a n : Nat) : Alike (s.unspecified a n) (s'.unspecified a n) :=
  { h with
    draws := congrArg (· + n) h.draws
    wf := Memory.wf_writeBytes a _ h.wf
    wf' := Memory.wf_writeBytes a _ h.wf' }

theorem Alike.setResult (c : Byte) : Alike (s.setResult c) (s'.setResult c) := { h with result := rfl }

theorem Alike.setOutLen (n : Nat) : Alike (s.setOutLen n) (s'.setOutLen n) :=
  { h with outLen := congrArg (fun c : Config => keepBits (c.addrW + 1) n) h.cfg }

theorem Alike.complete : EndAlike s.complete s'.complete := { h with status := rfl }

theorem Alike.raise (x : Failure) : EndAlike (s.raise x) (s'.raise x) :=
  { h with errPos := congrArg (fun c : Config => keepBits c.addrW x.pos) h.cfg, status := rfl }

theorem Alike.deliver (a n : Nat) (r : Except Failure (List Byte)) :
    EndAlike (s.deliver a n r) (s'.deliver a n r) := by
  cases r with
  | error x => exact (h.unspecified a n).raise x
  | ok d => exact ((h.memWrite a d).setOutLen n).complete

theorem Alike.judge (r : List Byte) : EndAlike (s.judge r) (s'.judge r) := by
  have ht (c : Byte) := ((h.memWrite s'.dstN r).setOutLen s'.lenN).setResult c
  simp only [State.judge, h.cfg, h.dstN, h.lenN]
  split
  · exact (ht _).complete
  · exact (ht _).raise _

end

/-! ### The bytes of the written windows -/

/-- After the same write two canonical buffers agree on a range of which the write covers every byte on which they
may have differed. -/
theorem AgreeOn.writeBytes {m m' : List Host.Cell} (hm : Memory.wf m = true) (hm' : Memory.wf m' = true)
    {a n b : Nat} {d : List Byte}
    (h : ∀ k, k < n → (b ≤ a + k ∧ a + k < b + d.length) ∨ Memory.read m (a + k) = Memory.read m' (a + k)) :
    AgreeOn (Memory.writeBytes m b d) (Memory.writeBytes m' b d) a n := by
  intro k hk
  by_cases hin : b ≤ a + k ∧ a + k < b + d.length
  · obtain ⟨j, hj⟩ := Nat.exists_eq_add_of_le hin.1
    have hjd : j < d.length := by omega
    rw [hj, Memory.read_writeBytes_inside hm d b j hjd, Memory.read_writeBytes_inside hm' d b j hjd]
  · have hout : a + k < b ∨ b + d.length ≤ a + k := by omega
    rw [Memory.read_writeBytes_outside _ _ hout, Memory.read_writeBytes_outside _ _ hout]
    exact (h k hk).resolve_left hin

/-- The end of an encoding or decoding fills its window in both runs alike, with free bytes or with the codec's
sequence, and leaves agreeing bytes outside it in agreement. -/
theorem Alike.deliver_agreeOn {s s' : State} (h : Alike s s') {a n b m : Nat} {r : Except Failure (List Byte)}
    (hr : ∀ d, r = .ok d → d.length = n)
    (hb : ∀ k, k < m → (a ≤ b + k ∧ b + k < a + n) ∨ Memory.read s.buf (b + k) = Memory.read s'.buf (b + k)) :
    AgreeOn (s.deliver a n r).buf (s'.deliver a n r).buf b m := by
  cases r with
  | error x =>
    simp only [State.deliver, raise_buf, unspecified_buf, ← h.draws]
    exact AgreeOn.writeBytes h.wf h.wf' (by simpa using hb)
  | ok d =>
    obtain rfl := hr d rfl
    exact AgreeOn.writeBytes h.wf h.wf' hb

/-- A whole range written alike is a range in agreement. -/
theorem covers_self (a n : Nat) (p : Nat → Prop) : ∀ k, k < n → (a ≤ a + k ∧ a + k < a + n) ∨ p k :=
  fun k hk => .inl ⟨by omega, by omega⟩

theorem judge_buf (s : State) (r : List Byte) : (s.judge r).buf = Memory.writeBytes s.buf s.dstN r := by
  obtain ⟨c, ht | ht⟩ := judge_cases s r <;> rw [ht] <;> rfl



/-- PACKETIZE passes its checks only with a message of at least one byte (R106). -/
theorem lenN_pos_of_checks_packetize {s : State} (h : checks .packetize s = none) : 0 < s.lenN := by
  by_contra hz
  simp [checks, checkLen, show s.lenN = 0 by omega] at h

/-- The written windows of a command hold the same bytes in two runs. -/
def WindowsAgree (i : Instr) (s t t' : State) : Prop :=
  ∀ v, outWindow i s = some v ∨ slotWindow i s = some v → AgreeOn t.buf t'.buf v.base v.len

/-- A command that passed its checks has the same effect in two runs that agree on its input window (R41). -/
theorem afterChecks_alike {s s' : State} {i : Instr} (h : Alike s s') (hbusy : s.status.busy = s'.status.busy)
    (hchecks : checks i s = none)
    (hin : ∀ v, inWindow i s = some v → AgreeOn s.buf s'.buf v.base v.len) :
    EndAlike (afterChecks i s) (afterChecks i s') ∧ WindowsAgree i s (afterChecks i s) (afterChecks i s') := by
  have hread {v : Window} {n : Nat} (hv : inWindow i s = some v) (hn : n ≤ v.len) :
      s.memRead v.base n = s'.memRead v.base n :=
    Memory.readBytes_congr fun k hk => hin v hv k (by omega)
  cases i with
  | ack =>
    refine ⟨{ h with status := ?_ }, nofun⟩
    simp only [afterChecks, Status.acked, hbusy]
  | crc8 =>
    refine ⟨?_, nofun⟩
    simp only [afterChecks, bodyCrc8, ← h.cfg, ← h.srcN, ← h.lenN, ← hread rfl le_rfl]
    exact (h.setResult _).complete
  | cobsEnc =>
    simp only [afterChecks, bodyCobsEnc, ← h.srcN, ← h.dstN, ← h.lenN, ← hread rfl le_rfl]
    refine ⟨h.deliver _ _ _, ?_⟩
    rintro v (⟨⟨⟩⟩ | ⟨⟨⟩⟩)
    refine h.deliver_agreeOn (fun d hd => ?_) (covers_self _ _ _)
    simpa [State.memRead] using cobsEncode_length hd
  | cobsDec =>
    simp only [afterChecks, bodyCobsDec, ← h.srcN, ← h.dstN, ← h.lenN, ← hread rfl le_rfl]
    refine ⟨h.deliver _ _ _, ?_⟩
    rintro v (⟨⟨⟩⟩ | ⟨⟨⟩⟩)
    refine h.deliver_agreeOn (fun d hd => ?_) (covers_self _ _ _)
    have hlen := cobsDecode_length hd
    simp only [State.memRead, Memory.readBytes_length] at hlen
    omega
  | packetize =>
    simp only [afterChecks, bodyPacketize, ← h.cfg, ← h.srcN, ← h.dstN, ← h.lenN,
      ← hread (n := s.lenN - 1) rfl (Nat.sub_le _ _)]
    generalize hc : crc8 s.cfg.crc (s.memRead s.srcN (s.lenN - 1)) = c
    have hslot := (h.memWrite (s.srcN + s.lenN - 1) [c]).setResult c
    refine ⟨hslot.deliver _ _ _, fun v hv => hslot.deliver_agreeOn (fun d hd => ?_) ?_⟩
    · have hpos := lenN_pos_of_checks_packetize hchecks
      have hlen := cobsEncode_length hd
      simp [State.memRead] at hlen
      omega
    · obtain ⟨⟨⟩⟩ | ⟨⟨⟩⟩ := hv
      · exact covers_self _ _ _
      · exact fun k hk => .inr (AgreeOn.writeBytes h.wf h.wf' (covers_self _ _ _) k hk)
  | depacketize =>
    simp only [afterChecks, bodyDepacketize, ← h.srcN, ← h.dstN, ← h.lenN, ← hread rfl le_rfl]
    split
    · next x _ =>
      refine ⟨h.deliver _ _ (.error x), ?_⟩
      rintro v (⟨⟨⟩⟩ | ⟨⟨⟩⟩)
      exact h.deliver_agreeOn (r := .error x) nofun (covers_self _ _ _)
    · next r hr =>
      refine ⟨h.judge r, ?_⟩
      rintro v (⟨⟨⟩⟩ | ⟨⟨⟩⟩)
      have hlen : s.lenN = r.length := by simpa [State.memRead] using cobsDecode_length hr
      simp only [judge_buf, ← h.dstN, hlen]
      exact AgreeOn.writeBytes h.wf h.wf' (covers_self _ _ _)

/-- A command's completion is the same in two runs that agree on its input window, whichever way its checks go
(R41, R111). -/
theorem checked_alike {s s' : State} {i : Instr} (h : Alike s s') (hbusy : s.status.busy = s'.status.busy)
    (hin : ∀ v, inWindow i s = some v → AgreeOn s.buf s'.buf v.base v.len) :
    EndAlike (s.checked i (afterChecks i)) (s'.checked i (afterChecks i)) ∧
      ((s.checked i (afterChecks i)).status.err = false ∨ 5 ≤ (s.checked i (afterChecks i)).status.ecode.toNat →
        WindowsAgree i s (s.checked i (afterChecks i)) (s'.checked i (afterChecks i))) := by
  have hlow : ∀ e ∈ checkErrors, ¬ ((Status.raised e).err = false ∨ 5 ≤ (Status.raised e).ecode.toNat) := by decide
  simp only [State.checked, ← h.checks_eq]
  cases hchecks : checks i s with
  | some e => exact ⟨h.raise _, fun hst => absurd hst (hlow e (checks_error hchecks))⟩
  | none =>
    obtain ⟨hend, hwin⟩ := afterChecks_alike h hbusy hchecks hin
    exact ⟨hend, fun _ => hwin⟩

/-- The engine's turn completes the command in flight (R111). -/
theorem engineStep_of_inFlight {s : State} {i : Instr} (h : s.InFlight i) : s.engineStep = exec i s := by
  obtain ⟨hbusy, hlatched⟩ := h
  simp only [State.engineStep, hbusy, hlatched, if_true]

theorem engineStep_of_illegal {s : State} {x : DecodeError} (hbusy : s.status.busy = true)
    (hlatched : s.latched = .error x) : s.engineStep = .next (completeIllegal s) := by
  simp only [State.engineStep, hbusy, hlatched, if_true]

/-- Settles O33: the two runs latched the same command, so both complete it alike. -/
theorem resultsDependOnlyOnOperands : Obligations.ResultsDependOnlyOnOperands := by
  intro s s' hwf hwf' hb hb' hcfg hlWord hlOp hlSrc hlDst hlLen hdraws hresult houtLen herrPos hin
  have h : Alike s s' := ⟨hcfg, hlSrc, hlDst, hlLen, hdraws, hresult, houtLen, herrPos, hwf, hwf'⟩
  have hlatched : s'.latched = s.latched := by rw [State.latched, State.latched, hlWord, hlOp]
  cases hl : s.latched with
  | error x =>
    have hend : EndAlike (completeIllegal s) (completeIllegal s') := h.raise _
    exact ⟨_, _, engineStep_of_illegal hb hl, engineStep_of_illegal hb' (hlatched.trans hl), hend.status,
      hend.result, hend.outLen, hend.errPos, hend.draws, nofun⟩
  | ok i =>
    obtain ⟨hend, hwin⟩ := checked_alike h (hb.trans hb'.symm) (hin i · hl)
    refine ⟨_, _, (engineStep_of_inFlight ⟨hb, hl⟩).trans (exec_eq_checked i s),
      (engineStep_of_inFlight ⟨hb', hlatched.trans hl⟩).trans (exec_eq_checked i s'), hend.status,
      hend.result, hend.outLen, hend.errPos, hend.draws, ?_⟩
    rintro j v ⟨⟩ hv hst
    exact hwin hst v hv

end Sys2Proof.Machine
end

section
/-! PROOF. The invariant of the state: one lemma per update, and every step keeps it. -/

namespace Sys2Proof.Machine

/-! ### The host's updates keep the invariant -/

/-- A register field of w bits holds a value below 2^w (R9). -/
theorem keepBits_toNat_lt (w n : Nat) : (keepBits w n).toNat < 2 ^ w := by
  rw [keepBits, BitVec.toNat_ofNat]
  exact lt_of_le_of_lt (Nat.mod_le _ _) (Nat.mod_lt _ (Nat.two_pow_pos w))

theorem ErrCode.code_ne_zero (e : ErrCode) : e.code ≠ 0 := by cases e <;> decide

/-- Codes 11 to 15 are never produced (R200). -/
theorem ErrCode.code_le (e : ErrCode) : e.code.toNat ≤ 10 := by cases e <;> decide

/-- A reset makes bytes unspecified and changes no parameter (R6, R231). -/
theorem abandon_cfg (s : State) : s.abandon.cfg = s.cfg := by
  have hclobber (t : State) (w : Option Window) : (t.clobber w).cfg = t.cfg := by cases w <;> rfl
  unfold State.abandon
  split
  · simp only [hclobber]
  · rfl

section
variable {s : State} (h : s.Inv)
include h

theorem State.Inv.see (w : Word) : (s.see w).Inv := { h with }

theorem State.Inv.popOp : s.popOp.Inv := { h with }

theorem State.Inv.popTurn : s.popTurn.Inv := { h with }

theorem State.Inv.waitStep : s.waitStep.Inv := by
  unfold State.waitStep
  split
  · exact h.see _
  · exact (h.see _).popOp

/-- A write that ends inside BUF keeps it canonical and within its size (R51). -/
theorem State.Inv.memWrite {a : Nat} {d : List Byte} (hd : a + d.length ≤ s.cfg.bufSize) : (s.memWrite a d).Inv :=
  { h with
    bufWf := Memory.wf_writeBytes a d h.bufWf
    bufBelow := Memory.below_writeBytes a d h.bufBelow hd }

/-- The accept of a command word other than ACK's, while idle (R101). -/
theorem State.Inv.accept {w : Word} (hw : w ≠ 0) : (s.accept w).Inv :=
  { h with
    outLenFits := Nat.two_pow_pos _
    errPosFits := Nat.two_pow_pos _
    lSrcFits := h.srcFits
    lDstFits := h.dstFits
    lLenFits := h.lenFits
    opLatched := rfl
    ecodeKnown := Nat.zero_le _
    errCode := by simp [Status.accepted]
    errDone := nofun
    busyDone := fun _ => rfl
    busyClear := fun _ => ⟨rfl, rfl, rfl⟩
    busyWord := fun _ => hw }

/-- ACK leaves STATUS without a completion (R102). -/
theorem State.Inv.ack : State.Inv { s with status := s.status.acked } :=
  { h with
    ecodeKnown := Nat.zero_le _
    errCode := by simp [Status.acked]
    errDone := nofun
    busyDone := fun _ => rfl }

/-- A host access that goes through keeps the invariant, by what it can do (R52 to R55, R101 to R103). -/
theorem State.Inv.access {op : BusOp} {t : State} (ht : s.access op = .next t) : t.Inv := by
  obtain ⟨-, w, rfl⟩ | ⟨-, hwrite⟩ := access_cases ht
  · exact h.see w
  · obtain rfl | ⟨b, rfl⟩ | ⟨n, rfl⟩ | ⟨n, rfl⟩ | ⟨n, rfl⟩ | ⟨a, d, hd, rfl⟩ | ⟨-, hack⟩ | ⟨-, w, hw, rfl⟩ :=
      hwrite
    · exact h
    · exact { h with }
    · exact { h with srcFits := keepBits_toNat_lt _ n }
    · exact { h with dstFits := keepBits_toNat_lt _ n }
    · exact { h with lenFits := keepBits_toNat_lt _ n }
    · exact h.memWrite hd
    · cases hack
      exact h.ack
    · exact h.accept hw

theorem State.Inv.hostStep {t : State} (ht : s.hostStep = .next t) : t.Inv := by
  obtain ⟨-, rfl⟩ | ⟨op, rest, -, hop⟩ | ⟨rest, -, rfl⟩ := hostStep_cases ht
  · exact h
  · exact h.popOp.access hop
  · exact h.waitStep

/-! ### Reset -/

/-- Making a range unspecified is a write of as many bytes (R10). -/
theorem State.Inv.unspecified {a n : Nat} (hn : a + n ≤ s.cfg.bufSize) : (s.unspecified a n).Inv :=
  { h.memWrite (d := freeBytes s.draws n) (by rwa [freeBytes_length]) with }

/-- The window a reset makes unspecified is clipped to BUF (log entry 10); one past its end has no byte left. -/
theorem State.Inv.clobber (w : Option Window) : (s.clobber w).Inv := by
  cases w with
  | none => exact h
  | some v =>
    by_cases hbase : v.base ≤ s.cfg.bufSize
    · exact h.unspecified (by omega)
    · have hnone : min v.len (s.cfg.bufSize - v.base) = 0 := by omega
      rw [State.clobber, hnone]
      exact h

theorem State.Inv.abandon : s.abandon.Inv := by
  unfold State.abandon
  split
  · exact (h.clobber _).clobber _
  · exact h

/-- A reset leaves the state of a power-on with what it made of BUF (R230, R231). -/
theorem State.Inv.applyReset : s.applyReset.Inv :=
  { inv_powerOn h.cfgLegal h.abandon.bufWf (abandon_cfg s ▸ h.abandon.bufBelow) with }

/-! ### The completion of a command

Between a command's first effect and its end BUSY is still 1 while RESULT and OUTLEN are already written, so the
invariant fails there. What holds all along is the invariant of the state as `complete()` would leave it. -/

theorem State.Inv.complete : s.complete.Inv :=
  { h with
    ecodeKnown := Nat.zero_le _
    errCode := by simp [Status.completed]
    errDone := nofun
    busyDone := nofun
    busyClear := nofun
    busyWord := nofun }

end

section
variable {s : State} (h : s.complete.Inv)
include h

theorem State.Inv.raise (x : Failure) : (s.raise x).Inv :=
  { h with
    errPosFits := keepBits_toNat_lt _ _
    ecodeKnown := x.code.code_le
    errCode := by simpa [Status.raised] using x.code.code_ne_zero
    errDone := fun _ => rfl
    busyDone := nofun
    busyClear := nofun
    busyWord := nofun }

theorem State.Inv.setResult_complete (c : Byte) : (s.setResult c).complete.Inv :=
  { h with busyClear := nofun }

theorem State.Inv.setOutLen_complete (n : Nat) : (s.setOutLen n).complete.Inv :=
  { h with outLenFits := keepBits_toNat_lt _ _, busyClear := nofun }

theorem State.Inv.memWrite_complete {a : Nat} {d : List Byte} (hd : a + d.length ≤ s.cfg.bufSize) :
    (s.memWrite a d).complete.Inv := h.memWrite hd

theorem State.Inv.unspecified_complete {a n : Nat} (hn : a + n ≤ s.cfg.bufSize) :
    (s.unspecified a n).complete.Inv := h.unspecified hn

/-- The codec's answer keeps to a window inside BUF (R51). -/
theorem State.Inv.deliver {a n : Nat} {r : Except Failure (List Byte)} (hn : a + n ≤ s.cfg.bufSize)
    (hr : ∀ d, r = .ok d → d.length = n) : (s.deliver a n r).Inv := by
  cases r with
  | error x => exact (h.unspecified_complete hn).raise x
  | ok d => exact (h.memWrite_complete (by rwa [hr d rfl])).setOutLen_complete n

theorem State.Inv.judge {r : List Byte} (hr : s.dstN + r.length ≤ s.cfg.bufSize) : (s.judge r).Inv := by
  obtain ⟨c, ht | ht⟩ := judge_cases s r <;> rw [ht]
  · exact ((h.memWrite_complete hr).setOutLen_complete _).setResult_complete c
  · exact (((h.memWrite_complete hr).setOutLen_complete _).setResult_complete c).raise _

end

section
variable {s : State} (h : s.Inv)
include h

/-- A command that passed its checks writes inside its windows, and so inside BUF (R51, R107). -/
theorem State.Inv.afterChecks {i : Instr} (hchecks : checks i s = none) : (afterChecks i s).Inv := by
  obtain ⟨hin, hout⟩ := windows_inside_of_checks hchecks
  cases i with
  | ack => exact h.ack
  | crc8 => exact h.complete.setResult_complete _
  | cobsEnc =>
    refine h.complete.deliver (hout _ rfl) fun d hd => ?_
    simpa [State.memRead] using cobsEncode_length hd
  | cobsDec =>
    refine h.complete.deliver (hout _ rfl) fun d hd => ?_
    have hlen := cobsDecode_length hd
    simp only [State.memRead, Memory.readBytes_length] at hlen
    omega
  | packetize =>
    have hpos := lenN_pos_of_checks_packetize hchecks
    have hslot : s.srcN + s.lenN - 1 + 1 ≤ s.cfg.bufSize := by
      rw [Nat.sub_add_cancel (by omega)]
      exact hin _ rfl
    refine ((h.complete.memWrite_complete hslot).setResult_complete _).deliver (hout _ rfl) fun d hd => ?_
    have hlen := cobsEncode_length hd
    simp [State.memRead] at hlen
    omega
  | depacketize =>
    simp only [Machine.afterChecks, bodyDepacketize]
    split
    · exact (h.complete.unspecified_complete (hout _ rfl)).raise _
    · next r hr =>
      have hlen : s.lenN = r.length := by simpa [State.memRead] using cobsDecode_length hr
      exact h.complete.judge (hlen ▸ hout _ rfl)

/-- Every completion keeps the invariant, a failed check's among them (R111). -/
theorem State.Inv.exec {i : Instr} {t : State} (ht : exec i s = .next t) : t.Inv := by
  obtain ⟨e, -, rfl⟩ | ⟨hchecks, rfl⟩ := exec_cases ht
  · exact h.complete.raise _
  · exact h.afterChecks hchecks

theorem State.Inv.engineStep {t : State} (ht : s.engineStep = .next t) : t.Inv := by
  obtain ⟨-, rfl⟩ | ⟨-, i, -, hexec⟩ | ⟨-, -, rfl⟩ := engineStep_cases ht
  · exact h
  · exact h.exec hexec
  · exact h.complete.raise _

end

/-- Settles O37: by the agent that moves. -/
theorem stepKeepsInvariant : Obligations.StepKeepsInvariant := by
  intro s t h ht
  obtain rfl | hengine | hhost := step_cases ht
  · exact h.popTurn.applyReset
  · exact h.popTurn.engineStep hengine
  · exact h.popTurn.hostStep hhost

end Sys2Proof.Machine
end

section
/-! PROOF. The host's accesses: which go through, which fault as ill-formed, what they return and change, and that
doing one twice is doing it once. -/

namespace Sys2Proof.Machine

/-! ### Which accesses go through -/

theorem access_of_route_reg {s : State} {op : BusOp} {off : Nat} (h : route s.cfg op.addr = .reg off) :
    s.access op = s.regAccess op off := by
  rw [State.access, h]

theorem access_of_route_buf {s : State} {op : BusOp} {a : Nat} (h : route s.cfg op.addr = .buf a) :
    s.access op = s.bufAccess op a := by
  rw [State.access, h]

theorem access_of_route_outside {s : State} {op : BusOp} (h : route s.cfg op.addr = .outside) :
    s.access op = .fault (.outsideWindows op) := by
  rw [State.access, h]

/-- The two windows do not overlap in a legal configuration (log entry 2). -/
theorem Config.windows_apart {c : Config} (h : c.legal = true) :
    c.regBase + 0x100 ≤ c.bufBase ∨ c.bufBase + bufWindow c ≤ c.regBase := by
  simp only [Config.legal, Bool.and_eq_true, Bool.or_eq_true, decide_eq_true_eq] at h
  obtain ⟨⟨-, hapart⟩, -⟩ := h
  exact hapart

/-- An address of the buffer window, its padding included (R56). -/
theorem route_bufBase_add {c : Config} (h : c.legal = true) {a : Nat} (ha : a < bufWindow c) :
    route c (c.bufBase + a) = .buf a := by
  have hapart := Config.windows_apart h
  rw [route, if_neg (by omega), if_pos (by omega), Nat.add_sub_cancel_left]

theorem bufSize_le_bufWindow (c : Config) : c.bufSize ≤ bufWindow c := by
  unfold bufWindow
  omega

/-- The forms of a BUF access that R54 does not list. -/
theorem bufAccessOk_iff {c : Config} {w : Width} {a : Nat} :
    bufAccessOk c w a = true ↔
      w = .w8 ∧ a < c.bufSize ∨ w = .w32 ∧ a % 4 = 0 ∧ a + 4 ≤ c.bufSize := by
  cases w <;> simp [bufAccessOk]

theorem regAccessOk_iff {w : Width} {off : Nat} : regAccessOk w off = true ↔ w = .w32 ∧ off % 4 = 0 := by
  simp [regAccessOk]

/-- A well-formed BUF access of a legal configuration reaches the buffer (R52, R56). -/
theorem access_of_bufAccessOk {s : State} {op : BusOp} {a : Nat} (h : s.cfg.legal = true)
    (haddr : op.addr = s.cfg.bufBase + a) (hok : bufAccessOk s.cfg op.width a = true) :
    s.access op = s.bufAccess op a := by
  have hsize := bufSize_le_bufWindow s.cfg
  refine access_of_route_buf (haddr ▸ route_bufBase_add h ?_)
  obtain ⟨-, ha⟩ | ⟨-, -, ha⟩ := bufAccessOk_iff.mp hok <;> omega

/-- While idle no window is active (R235). -/
theorem hazard_of_idle {s : State} (h : s.status.busy = false) (k : Kind) (v : Window) : s.hazard k v = false := by
  simp [State.hazard, State.active, h]

section
variable {s : State} {op : BusOp}

/-- A well-formed register read returns a word (R54, R55). -/
theorem regAccess_read {off : Nat} (hok : regAccessOk op.width off = true) (hk : op.kind = .read) :
    ∃ w, s.regAccess op off = .next (s.see w) := by
  rw [State.regAccess, if_pos hok, hk]
  cases regAt off with
  | none => exact ⟨_, rfl⟩
  | some r => exact ⟨_, rfl⟩

/-- A well-formed write of an offset without a register is ignored (R36). -/
theorem regAccess_write_unmapped {off : Nat} (hok : regAccessOk op.width off = true) (hk : op.kind = .write)
    (hr : regAt off = none) : s.regAccess op off = .next s := by
  rw [State.regAccess, if_pos hok, hk, hr]

/-- A well-formed write at a register's offset is that register's write (R22). -/
theorem regAccess_write_reg {off : Nat} {r : Reg} (hok : regAccessOk op.width off = true) (hk : op.kind = .write)
    (hr : regAt off = some r) : s.regAccess op off = s.writeReg r op.data := by
  rw [State.regAccess, if_pos hok, hk, hr]

theorem regAccess_illFormed {off : Nat} (hok : ¬ regAccessOk op.width off = true) :
    s.regAccess op off = .fault (.illFormedRegisterAccess op) := by
  rw [State.regAccess, if_neg hok]

/-- A read of BUF outside a hazard returns the bytes as one word (R53). -/
theorem bufAccess_read {a : Nat} (hok : bufAccessOk s.cfg op.width a = true)
    (hz : s.hazard op.kind { base := a, len := op.width.bytes } = false) (hk : op.kind = .read) :
    s.bufAccess op a = .next (s.see (bytesWord (s.memRead a op.width.bytes))) := by
  rw [State.bufAccess, if_pos hok, hz, hk]
  rfl

/-- A write of BUF outside a hazard writes the access's bytes (R53). -/
theorem bufAccess_write {a : Nat} (hok : bufAccessOk s.cfg op.width a = true)
    (hz : s.hazard op.kind { base := a, len := op.width.bytes } = false) (hk : op.kind = .write) :
    s.bufAccess op a = .next (s.memWrite a (accessBytes op.width op.data)) := by
  rw [State.bufAccess, if_pos hok, hz, hk]
  rfl

theorem bufAccess_hazard {a : Nat} (hok : bufAccessOk s.cfg op.width a = true)
    (hz : s.hazard op.kind { base := a, len := op.width.bytes } = true) :
    s.bufAccess op a = .fault (.windowHazard op) := by
  rw [State.bufAccess, if_pos hok, if_pos hz]

theorem bufAccess_illFormed {a : Nat} (hok : ¬ bufAccessOk s.cfg op.width a = true) :
    s.bufAccess op a = .fault (.illFormedBufferAccess op) := by
  rw [State.bufAccess, if_neg hok]

theorem writeReg_next (s : State) (r : Reg) (w : Word) : ∃ t, s.writeReg r w = .next t := by
  cases r with
  | cmd =>
    simp only [State.writeReg, State.writeCmd]
    split
    · exact ⟨_, rfl⟩
    · split
      · exact ⟨_, rfl⟩
      · exact ⟨_, rfl⟩
  | status | ctrl | src | dst | len | result | outLen | errPos => exact ⟨_, rfl⟩

/-- Every well-formed register access goes through (R57). -/
theorem regAccess_next {off : Nat} (hok : regAccessOk op.width off = true) : ∃ t, s.regAccess op off = .next t := by
  cases hk : op.kind with
  | read =>
    obtain ⟨w, hw⟩ := regAccess_read (s := s) hok hk
    exact ⟨_, hw⟩
  | write =>
    cases hr : regAt off with
    | none => exact ⟨s, regAccess_write_unmapped hok hk hr⟩
    | some r =>
      rw [regAccess_write_reg hok hk hr]
      exact writeReg_next s r op.data

/-- Every well-formed BUF access without a hazard goes through (R57). -/
theorem bufAccess_next {a : Nat} (hok : bufAccessOk s.cfg op.width a = true)
    (hz : s.hazard op.kind { base := a, len := op.width.bytes } = false) : ∃ t, s.bufAccess op a = .next t := by
  cases hk : op.kind with
  | read => exact ⟨_, bufAccess_read hok hz hk⟩
  | write => exact ⟨_, bufAccess_write hok hz hk⟩

/-- A register access goes through by its form alone. -/
theorem regAccessOk_of_next {off : Nat} {t : State} (h : s.regAccess op off = .next t) :
    regAccessOk op.width off = true := by
  by_contra hok
  simp [regAccess_illFormed hok] at h

/-- A BUF access that goes through is well formed and meets no hazard (R54, R235). -/
theorem bufAccessOk_of_next {a : Nat} {t : State} (h : s.bufAccess op a = .next t) :
    bufAccessOk s.cfg op.width a = true ∧ s.hazard op.kind { base := a, len := op.width.bytes } = false := by
  by_cases hok : bufAccessOk s.cfg op.width a = true
  · refine ⟨hok, Bool.eq_false_iff.mpr fun hz => ?_⟩
    simp [bufAccess_hazard hok hz] at h
  · simp [bufAccess_illFormed hok] at h

theorem regAccess_illFormed_iff {off : Nat} :
    s.regAccess op off = .fault (.illFormedRegisterAccess op) ↔ ¬ regAccessOk op.width off = true := by
  refine ⟨fun hfault hok => ?_, regAccess_illFormed⟩
  obtain ⟨t, ht⟩ := regAccess_next (s := s) hok
  simp [ht] at hfault

/-- A BUF access faults as ill-formed by its form alone: a hazard has a fault of its own (R54, R235). -/
theorem bufAccess_illFormed_iff {a : Nat} :
    s.bufAccess op a = .fault (.illFormedBufferAccess op) ↔ ¬ bufAccessOk s.cfg op.width a = true := by
  refine ⟨fun hfault hok => ?_, bufAccess_illFormed⟩
  cases hz : s.hazard op.kind { base := a, len := op.width.bytes } with
  | false =>
    obtain ⟨t, ht⟩ := bufAccess_next hok hz
    simp [ht] at hfault
  | true => simp [bufAccess_hazard hok hz] at hfault

end

/-- Settles O20: a register access has no hazard, and no window is active while idle. -/
theorem inRangeAccessesGoThrough : Obligations.InRangeAccessesGoThrough := by
  refine fun s op hlegal => ⟨fun off hoff haddr hwidth hal => ?_, fun a haddr hok hidle => ?_⟩
  · rw [access_of_route_reg (haddr ▸ route_regBase_add s.cfg hoff)]
    exact regAccess_next (regAccessOk_iff.mpr ⟨hwidth, hal⟩)
  · rw [access_of_bufAccessOk hlegal haddr hok]
    exact bufAccess_next hok (hazard_of_idle hidle _ _)

/-- Settles O19: each window's access faults as ill-formed by its form alone. -/
theorem illFormedAccessesFault : Obligations.IllFormedAccessesFault := by
  refine fun s op hlegal => ⟨fun off hoff haddr => ?_, fun a ha haddr => ?_⟩
  · rw [access_of_route_reg (haddr ▸ route_regBase_add s.cfg hoff), regAccess_illFormed_iff, regAccessOk_iff]
    cases op.width <;> simp
  · rw [access_of_route_buf (haddr ▸ route_bufBase_add hlegal ha), bufAccess_illFormed_iff, bufAccessOk_iff]
    cases op.width with
    | w8 => simp
    | w16 => simp
    | w32 =>
      simp
      omega

/-! ### What a BUF access reads and writes -/

/-- A byte in front of a little-endian word of at most 24 bits is its low byte (R53). -/
theorem bytesWord_cons_toNat (b : Byte) {d : List Byte} (hd : (bytesWord d).toNat < 2 ^ 24) :
    (bytesWord (b :: d)).toNat = b.toNat + 2 ^ 8 * (bytesWord d).toNat := by
  have hfits : (bytesWord d).toNat <<< 8 < 2 ^ 32 := by
    rw [Nat.shiftLeft_eq]
    omega
  rw [bytesWord, BitVec.toNat_or, BitVec.toNat_setWidth_of_le (by decide), BitVec.toNat_shiftLeft,
    Nat.mod_eq_of_lt hfits, Nat.or_comm, ← Nat.shiftLeft_add_eq_or_of_lt b.isLt, Nat.shiftLeft_eq]
  omega

/-- The little-endian word of four bytes (R53). -/
theorem bytesWord_four_toNat (b₀ b₁ b₂ b₃ : Byte) :
    (bytesWord [b₀, b₁, b₂, b₃]).toNat =
      b₀.toNat + 2 ^ 8 * b₁.toNat + 2 ^ 16 * b₂.toNat + 2 ^ 24 * b₃.toNat := by
  have hnil : (bytesWord []).toNat = 0 := rfl
  have h₃ := bytesWord_cons_toNat b₃ (d := []) (by omega)
  have h₂ := bytesWord_cons_toNat b₂ (d := [b₃]) (by omega)
  have h₁ := bytesWord_cons_toNat b₁ (d := [b₂, b₃]) (by omega)
  have h₀ := bytesWord_cons_toNat b₀ (d := [b₁, b₂, b₃]) (by omega)
  omega

/-- One byte as a bus word stands in the low bits (log entry 15). -/
theorem bytesWord_singleton (b : Byte) : bytesWord [b] = b.setWidth 32 := by
  simp [bytesWord]

/-- The bytes of a word by position (R53). -/
theorem wordBytes_getElem_toNat (w : Word) {k : Nat} (hk : k < (wordBytes w).length) :
    (wordBytes w)[k].toNat = w.toNat / 2 ^ (8 * k) % 2 ^ 8 := by
  have hbyte (j : Nat) : (w.extractLsb' j 8).toNat = w.toNat / 2 ^ j % 2 ^ 8 := by
    rw [BitVec.extractLsb'_toNat, Nat.shiftRight_eq_div_pow]
  match k, hk with
  | 0, _ => exact hbyte 0
  | 1, _ => exact hbyte 8
  | 2, _ => exact hbyte 16
  | 3, _ => exact hbyte 24

/-- A write leaves the bytes outside its range as they were. -/
theorem agreeOutside_memWrite (s : State) (a : Nat) (d : List Byte) :
    AgreeOutside s.buf (s.memWrite a d).buf a d.length :=
  fun _ hb => (Memory.read_writeBytes_outside s.buf d hb).symm

/-- Settles O17: the four bytes of the word, each at its address. -/
theorem wordAccessLittleEndian : Obligations.WordAccessLittleEndian := by
  intro s a w hlegal hwf hal ha
  have hok : bufAccessOk s.cfg .w32 a = true := bufAccessOk_iff.mpr (.inr ⟨rfl, hal, ha⟩)
  refine ⟨fun hz => ⟨_, (access_of_bufAccessOk hlegal rfl hok).trans (bufAccess_read hok hz rfl), ?_⟩,
    fun hz => ⟨_, (access_of_bufAccessOk hlegal rfl hok).trans (bufAccess_write hok hz rfl), rfl, fun k hk => ?_,
      agreeOutside_memWrite s a (wordBytes w)⟩⟩
  · exact bytesWord_four_toNat _ _ _ _
  · have hk' : k < (wordBytes w).length := hk
    rw [← wordBytes_getElem_toNat w hk', ← Memory.read_writeBytes_inside hwf (wordBytes w) a k hk']
    rfl

/-- Settles O18: the sequence of one byte. -/
theorem byteAccess : Obligations.ByteAccess := by
  intro s a w hlegal hwf ha
  have hok : bufAccessOk s.cfg .w8 a = true := bufAccessOk_iff.mpr (.inl ⟨rfl, ha⟩)
  refine ⟨fun hz => (access_of_bufAccessOk hlegal rfl hok).trans ((bufAccess_read hok hz rfl).trans ?_),
    fun hz => ⟨_, (access_of_bufAccessOk hlegal rfl hok).trans (bufAccess_write hok hz rfl), rfl, ?_,
      agreeOutside_memWrite s a [w.extractLsb' 0 8]⟩⟩
  · rw [← bytesWord_singleton]
    rfl
  · rw [BitVec.setWidth_eq_extractLsb' (by decide)]
    exact (Memory.read_write hwf a a _).trans (if_pos rfl)

/-! ### An access done twice -/

/-- A second write of the same bytes changes nothing (R55). -/
theorem Memory.writeBytes_writeBytes {m : List Host.Cell} (hm : Memory.wf m = true) (a : Nat) (d : List Byte) :
    Memory.writeBytes (Memory.writeBytes m a d) a d = Memory.writeBytes m a d := by
  have hm' := Memory.wf_writeBytes a d hm
  refine Memory.ext_of_wf (Memory.wf_writeBytes a d hm') hm' fun b => ?_
  by_cases hb : b < a ∨ a + d.length ≤ b
  · exact Memory.read_writeBytes_outside _ d hb
  · obtain ⟨k, rfl⟩ := Nat.exists_eq_add_of_le (show a ≤ b by omega)
    have hk : k < d.length := by omega
    rw [Memory.read_writeBytes_inside hm' d a k hk, Memory.read_writeBytes_inside hm d a k hk]

/-- A register write other than CMD's puts its value where a second one puts it again (R55). -/
theorem writeReg_writeReg {s t : State} {r : Reg} {w : Word} (hr : r ≠ .cmd) (h : s.writeReg r w = .next t) :
    t.writeReg r w = .next t := by
  cases r with
  | cmd => exact absurd rfl hr
  | status | ctrl | src | dst | len | result | outLen | errPos =>
    cases h
    rfl

/-- What a register write other than CMD's changes: CTRL, SRC, DST or LEN, whichever it names (R55). -/
theorem writeReg_frame {s t : State} {r : Reg} {w : Word} (hr : r ≠ .cmd) (h : s.writeReg r w = .next t) :
    t = { s with irqEn := t.irqEn, src := t.src, dst := t.dst, len := t.len } ∧
      (r ≠ .ctrl → t.irqEn = s.irqEn) ∧ (r ≠ .src → t.src = s.src) ∧ (r ≠ .dst → t.dst = s.dst) ∧
      (r ≠ .len → t.len = s.len) := by
  cases r with
  | cmd => exact absurd rfl hr
  | status | ctrl | src | dst | len | result | outLen | errPos =>
    cases h
    simp

section
variable {s t : State} {op : BusOp}

/-- A read that went through changed what the host has seen only, so it goes through again (R55). -/
theorem access_read_twice (hk : op.kind = .read) (h : s.access op = .next t) :
    ∃ w, t.access op = .next (t.see w) := by
  obtain ⟨-, w, rfl⟩ | ⟨hwrite, -⟩ := access_cases h
  · cases hroute : route s.cfg op.addr with
    | reg off =>
      rw [access_of_route_reg hroute] at h
      rw [access_of_route_reg (s := s.see w) hroute]
      exact regAccess_read (regAccessOk_of_next h) hk
    | buf a =>
      rw [access_of_route_buf hroute] at h
      rw [access_of_route_buf (s := s.see w) hroute]
      obtain ⟨hok, hz⟩ := bufAccessOk_of_next h
      exact ⟨_, bufAccess_read (s := s.see w) hok hz hk⟩
    | outside =>
      rw [access_of_route_outside hroute] at h
      cases h
  · cases hk.symm.trans hwrite

/-- A write other than CMD's that went through leaves a state in which it changes nothing (R55). -/
theorem access_write_twice (hwf : Memory.wf s.buf = true) (hk : op.kind = .write)
    (hcmd : route s.cfg op.addr ≠ .reg 0x00) (h : s.access op = .next t) : t.access op = .next t := by
  cases hroute : route s.cfg op.addr with
  | reg off =>
    rw [access_of_route_reg hroute] at h
    have hok := regAccessOk_of_next h
    cases hr : regAt off with
    | none =>
      have hsame := h
      rw [regAccess_write_unmapped hok hk hr] at hsame
      cases hsame
      rwa [access_of_route_reg hroute]
    | some r =>
      have hne : r ≠ .cmd := by
        rintro rfl
        exact hcmd (hroute.trans (congrArg Target.reg (regAt_eq_some_iff.mp hr)))
      rw [regAccess_write_reg hok hk hr] at h
      obtain ⟨hframe, -⟩ := writeReg_frame hne h
      have hcfg : t.cfg = s.cfg := by rw [hframe]
      rw [access_of_route_reg (hcfg ▸ hroute), regAccess_write_reg hok hk hr]
      exact writeReg_writeReg hne h
  | buf a =>
    rw [access_of_route_buf hroute] at h
    obtain ⟨hok, hz⟩ := bufAccessOk_of_next h
    rw [bufAccess_write hok hz hk] at h
    cases h
    rw [access_of_route_buf (s := s.memWrite a _) hroute, bufAccess_write (s := s.memWrite a _) hok hz hk]
    simp only [State.memWrite, Memory.writeBytes_writeBytes hwf]
  | outside =>
    rw [access_of_route_outside hroute] at h
    cases h

/-- A write at a register's offset other than CMD's changes only the register there (R55). -/
theorem access_write_frame {off : Nat} (hk : op.kind = .write) (hroute : route s.cfg op.addr = .reg off)
    (hcmd : off ≠ 0x00) (h : s.access op = .next t) :
    t = { s with irqEn := t.irqEn, src := t.src, dst := t.dst, len := t.len } ∧
      (off ≠ 0x08 → t.irqEn = s.irqEn) ∧ (off ≠ 0x0C → t.src = s.src) ∧ (off ≠ 0x10 → t.dst = s.dst) ∧
      (off ≠ 0x14 → t.len = s.len) := by
  rw [access_of_route_reg hroute] at h
  have hok := regAccessOk_of_next h
  cases hr : regAt off with
  | none =>
    rw [regAccess_write_unmapped hok hk hr] at h
    cases h
    simp
  | some r =>
    rw [regAccess_write_reg hok hk hr] at h
    obtain rfl := regAt_eq_some_iff.mp hr
    have hne {r' : Reg} (ho : r.offset ≠ r'.offset) : r ≠ r' := fun heq => ho (congrArg Reg.offset heq)
    obtain ⟨hframe, hctrl, hsrc, hdst, hlen⟩ := writeReg_frame (hne (r' := .cmd) hcmd) h
    exact ⟨hframe, fun ho => hctrl (hne ho), fun ho => hsrc (hne ho), fun ho => hdst (hne ho),
      fun ho => hlen (hne ho)⟩

end

/-- Settles O16: the three sentences of R55. -/
theorem accessSideEffects : Obligations.AccessSideEffects := by
  refine ⟨fun s t op hk h => ?_, fun s t op off hk hroute hcmd h => access_write_frame hk hroute hcmd h,
    fun s t op hwf hcmd h => ?_⟩
  · obtain ⟨-, hread⟩ | ⟨hwrite, -⟩ := access_cases h
    · exact hread
    · cases hk.symm.trans hwrite
  · cases hk : op.kind with
    | read =>
      obtain ⟨w, hw⟩ := access_read_twice hk h
      exact ⟨t.see w, hw, rfl⟩
    | write => exact ⟨t, access_write_twice hwf hk (fun hroute => hcmd ⟨hk, hroute⟩) h, rfl⟩

end Sys2Proof.Machine
end

section
/-! PROOF. The command word: its two fields, the command map read both ways, and an illegal word from its accept to its
completion. -/

namespace Sys2Proof.Machine

/-! ### The fields and the command map -/

/-- A command word is its two fields (R71). -/
theorem wordRsv_append_wordOp (w : Word) : wordRsv w ++ wordOp w = w :=
  (BitVec.extractLsb'_append_extractLsb'_eq_extractLsb' (start₂ := 4) (start₁ := 0) rfl).trans
    BitVec.extractLsb'_eq_self

@[simp] theorem wordRsv_encode (i : Instr) : wordRsv (encode i) = 0 := by cases i <;> rfl

/-- The command map reads an OP as a command exactly if it is the OP of that command's word (R70). -/
theorem decodeOp_eq_ok_iff {op : BitVec 4} {i : Instr} : decodeOp op = .ok i ↔ op = wordOp (encode i) := by
  constructor
  · intro h
    unfold decodeOp at h
    split at h <;> cases h <;> exact BitVec.eq_of_toNat_eq ‹_›
  · rintro rfl
    cases i <;> rfl

/-- The reserved OPs of R72. -/
theorem decodeOp_error_iff {op : BitVec 4} : (∃ x, decodeOp op = .error x) ↔ 6 ≤ op.toNat := by
  unfold decodeOp
  generalize op.toNat = n
  match n with
  | 0 | 1 | 2 | 3 | 4 | 5 => simp
  | _ + 6 => simp

theorem decode_eq_ok_iff {w : Word} {i : Instr} :
    decode w = .ok i ↔ wordRsv w = 0 ∧ wordOp w = wordOp (encode i) := by
  by_cases h : wordRsv w = 0 <;> simp only [decode, decodeFields, h, decodeOp_eq_ok_iff, if_true, if_false, true_and,
    false_and, reduceCtorEq]

/-- The illegal words of R72. -/
theorem decode_error_iff {w : Word} : (∃ x, decode w = .error x) ↔ wordRsv w ≠ 0 ∨ 6 ≤ (wordOp w).toNat := by
  by_cases h : wordRsv w = 0 <;> simp only [decode, decodeFields, h, decodeOp_error_iff, if_true, if_false, ne_eq,
    not_true, not_false_iff, false_or, true_or, Except.error.injEq, exists_eq']

/-- Settles O1: the fields of a command's word are the ones the command map reads as that command. -/
theorem encodeThenDecode : Obligations.EncodeThenDecode := fun i _ => decode_eq_ok_iff.mpr ⟨wordRsv_encode i, rfl⟩

/-- Settles O2: a word that decodes to a command has both fields of that command's word. -/
theorem decodeThenEncode : Obligations.DecodeThenEncode := by
  intro w i h
  obtain ⟨hrsv, hop⟩ := decode_eq_ok_iff.mp h
  calc encode i = wordRsv (encode i) ++ wordOp (encode i) := (wordRsv_append_wordOp _).symm
    _ = wordRsv w ++ wordOp w := by rw [wordRsv_encode, hrsv, hop]
    _ = w := wordRsv_append_wordOp w

/-- Settles O3: the words 0 to 5 are the words of the six commands; the other two are computed. -/
theorem commandMapWords : Obligations.CommandMapWords :=
  ⟨encodeThenDecode .ack rfl, encodeThenDecode .crc8 rfl, encodeThenDecode .cobsEnc rfl, encodeThenDecode .cobsDec rfl,
    encodeThenDecode .packetize rfl, encodeThenDecode .depacketize rfl, rfl, rfl⟩

/-! ### An illegal word from its accept to its completion -/

/-- Word 0 is ACK's, so no illegal word is 0. -/
theorem ne_zero_of_decode_error {w : Word} {x : DecodeError} (h : decode w = .error x) : w ≠ 0 := by
  rintro rfl
  cases h

/-- An illegal word in flight has no windows (R235). -/
theorem active_of_illegal {s : State} {x : DecodeError} (h : s.latched = .error x) : s.active = none := by
  simp [State.active, h]

@[simp] theorem keepBits_zero (w : Nat) : keepBits w 0 = 0 := by simp [keepBits]

/-- Settles O4: the host's write is the accept, and the engine's step is the illegal command's completion. -/
theorem illegalCommandWords : Obligations.IllegalCommandWords := by
  refine ⟨nofun, fun w => ⟨decode_error_iff, ?_⟩⟩
  rintro ⟨x, hx⟩ s hidle
  have haccess : s.access (issueOp s.cfg w) = .next (s.accept w) :=
    (access_issueOp s w).trans (writeCmd_of_idle hidle (ne_zero_of_decode_error hx))
  have hlatched : (s.accept w).latched = .error x := hx
  exact ⟨_, completeIllegal (s.accept w), haccess, rfl, active_of_illegal hlatched, engineStep_of_illegal rfl hlatched,
    rfl, rfl, keepBits_zero _, rfl, rfl⟩

end Sys2Proof.Machine
end

section
/-! PROOF. The wire grammar of R75: what the decoder's loop does at a code byte and at a literal, what a block means,
and that the decoder accepts the grammar and nothing else. -/

namespace Sys2Proof.Machine

/-! ### The decoder's loop, byte by byte -/

/-- The checks of R160 pass exactly if the code byte is not 0 and its literals are there. -/
theorem codeCheck_eq_none_iff {p left : Nat} {C : Byte} :
    codeCheck p C left = none ↔ C ≠ 0 ∧ C.toNat - 1 ≤ left := by
  unfold codeCheck
  by_cases hC : C = 0
  · simp [hC]
  · simp only [hC, if_false, ne_eq, not_false_iff, true_and, ← not_lt]
    split <;> simp [*]

/-- The decoder's loop at a code byte (R160). -/
theorem cobsBlocks_code_eq_ok_iff {p : Nat} {C : Byte} {e out : List Byte} :
    cobsBlocks p 0 (C :: e) = .ok out ↔
      (C ≠ 0 ∧ C.toNat - 1 ≤ e.length) ∧
        ∃ r, cobsBlocks (p + 1) (C.toNat - 1) e = .ok r ∧ 0x00 :: r = out := by
  rw [← codeCheck_eq_none_iff (p := p), cobsBlocks]
  cases codeCheck p C e.length <;> cases cobsBlocks (p + 1) (C.toNat - 1) e <;> simp

/-- The decoder's loop at a literal (R160). -/
theorem cobsBlocks_literal_eq_ok_iff {p k : Nat} {b : Byte} {e out : List Byte} :
    cobsBlocks p (k + 1) (b :: e) = .ok out ↔
      b ≠ 0 ∧ ∃ r, cobsBlocks (p + 1) k e = .ok r ∧ b :: r = out := by
  rw [cobsBlocks]
  by_cases hb : b = 0
  · rw [if_pos hb]
    exact iff_of_false nofun fun h => h.1 hb
  · rw [if_neg hb, and_iff_right hb]
    cases cobsBlocks (p + 1) k e <;> simp

/-- The decoder is its loop begun after the delimiter, without the zero of the block before the first. -/
theorem cobsDecode_eq_ok_iff {e d : List Byte} :
    cobsDecode e = .ok d ↔ ∃ b, e = 0x00 :: b ∧ cobsBlocks 1 0 b = .ok (0x00 :: d) := by
  match e with
  | [] | [_] => simp [cobsDecode, cobsBlocks]
  | c :: C :: e =>
    rw [cobsDecode]
    by_cases hc : c = 0
    · subst hc
      rw [if_neg (not_not.mpr rfl)]
      simp only [List.cons.injEq, true_and, exists_eq_left', cobsBlocks]
      cases codeCheck 1 C e.length <;> cases cobsBlocks 2 (C.toNat - 1) e <;> simp
    · rw [if_pos hc]
      exact iff_of_false nofun fun ⟨_, h, _⟩ => hc (List.cons.inj h).1

/-- The position the loop counts from enters its errors only. -/
theorem cobsBlocks_ok_of_ok {p k : Nat} {e out : List Byte} (h : cobsBlocks p k e = .ok out) (q : Nat) :
    cobsBlocks q k e = .ok out := by
  induction e generalizing p q k out with
  | nil => cases k <;> exact h
  | cons b e ih =>
    cases k with
    | zero =>
      obtain ⟨hcode, r, hr, hout⟩ := cobsBlocks_code_eq_ok_iff.mp h
      exact cobsBlocks_code_eq_ok_iff.mpr ⟨hcode, r, ih hr _, hout⟩
    | succ k =>
      obtain ⟨hb, r, hr, hout⟩ := cobsBlocks_literal_eq_ok_iff.mp h
      exact cobsBlocks_literal_eq_ok_iff.mpr ⟨hb, r, ih hr _, hout⟩

/-! ### The meaning of a block -/

/-- The loop copies the literals of the open block. -/
theorem cobsBlocks_literals {p : Nat} {lits rest r : List Byte} (hlits : ∀ b ∈ lits, b ≠ 0)
    (hrest : cobsBlocks (p + lits.length) 0 rest = .ok r) :
    cobsBlocks p lits.length (lits ++ rest) = .ok (lits ++ r) := by
  induction lits generalizing p with
  | nil => exact hrest
  | cons b lits ih =>
    obtain ⟨hb, hlits⟩ := List.forall_mem_cons.mp hlits
    refine cobsBlocks_literal_eq_ok_iff.mpr ⟨hb, _, ih hlits ?_, rfl⟩
    rwa [Nat.add_right_comm]

/-- A block's code byte does not wrap: 254 literals give 0xFF (R77). -/
theorem codeByte_toNat {lits : List Byte} (h : lits.length ≤ 254) :
    (BitVec.ofNat 8 (lits.length + 1)).toNat = lits.length + 1 := by
  rw [BitVec.toNat_ofNat]
  omega

/-- A block means its literals (R76); the zero in front is that of the block before. -/
theorem cobsBlocks_block {p q : Nat} {lits rest r : List Byte} (hlen : lits.length ≤ 254) (hlits : ∀ b ∈ lits, b ≠ 0)
    (hrest : cobsBlocks q 0 rest = .ok r) :
    cobsBlocks p 0 (cobsBlock lits ++ rest) = .ok (0x00 :: (lits ++ r)) := by
  refine cobsBlocks_code_eq_ok_iff.mpr ⟨⟨?_, ?_⟩, lits ++ r, ?_, rfl⟩
  · intro h
    simpa [codeByte_toNat hlen] using congrArg BitVec.toNat h
  · simp [codeByte_toNat hlen]
  · rw [codeByte_toNat hlen]
    exact cobsBlocks_literals hlits (cobsBlocks_ok_of_ok hrest _)

/-- Nothing follows the literals of the last block (R76). -/
theorem cobsBlocks_lastBlock {p : Nat} {lits : List Byte} (hlen : lits.length ≤ 254) (hlits : ∀ b ∈ lits, b ≠ 0) :
    cobsBlocks p 0 (cobsBlock lits) = .ok (0x00 :: lits) := by
  simpa using cobsBlocks_block (p := p) (q := 0) (rest := []) hlen hlits rfl

/-- Settles O46: the loop's zero for the block that follows is the one R76 asks for, and the decoder starts without
one. -/
theorem decodeBlockMeaning : Obligations.DecodeBlockMeaning := by
  intro lits hlen hlits
  constructor
  · exact cobsDecode_eq_ok_iff.mpr ⟨_, rfl, cobsBlocks_lastBlock hlen hlits⟩
  · intro rest d hd
    obtain ⟨_, ⟨⟩, hrest⟩ := cobsDecode_eq_ok_iff.mp hd
    exact cobsDecode_eq_ok_iff.mpr ⟨_, rfl, cobsBlocks_block hlen hlits hrest⟩

/-! ### The grammar -/

theorem cobsBlocks_of_blockSeq {b : List Byte} (h : BlockSeq b) : ∃ d, cobsBlocks 1 0 b = .ok (0x00 :: d) := by
  induction h with
  | last lits hlen hlits => exact ⟨lits, cobsBlocks_lastBlock hlen hlits⟩
  | more lits rest hlen hlits _ ih =>
    obtain ⟨d, hd⟩ := ih
    exact ⟨lits ++ 0x00 :: d, cobsBlocks_block hlen hlits hd⟩

/-- The rest of a sequence of blocks, with k literals of the open block still to come: these literals, and then nothing
or blocks. -/
def OpenBlock (k : Nat) (e : List Byte) : Prop :=
  ∃ lits rest, e = lits ++ rest ∧ lits.length = k ∧ (∀ b ∈ lits, b ≠ 0) ∧ (rest = [] ∨ BlockSeq rest)

/-- What the loop reads without error is the rest of a sequence of blocks, if the open block's literals are there. -/
theorem openBlock_of_cobsBlocks {p k : Nat} {e out : List Byte} (hk : k ≤ e.length)
    (h : cobsBlocks p k e = .ok out) : OpenBlock k e := by
  induction e generalizing p k out with
  | nil =>
    obtain rfl := Nat.le_zero.mp hk
    exact ⟨[], [], rfl, rfl, nofun, .inl rfl⟩
  | cons b e ih =>
    cases k with
    | zero =>
      obtain ⟨⟨hb, hleft⟩, r, hr, -⟩ := cobsBlocks_code_eq_ok_iff.mp h
      obtain ⟨lits, rest, rfl, hlen, hlits, hrest⟩ := ih hleft hr
      have hpos : b.toNat ≠ 0 := fun h0 => hb (BitVec.eq_of_toNat_eq h0)
      have hshort : lits.length ≤ 254 := by
        have := b.isLt
        omega
      obtain rfl : b = BitVec.ofNat 8 (lits.length + 1) :=
        BitVec.eq_of_toNat_eq (by rw [codeByte_toNat hshort]; omega)
      refine ⟨[], _, rfl, rfl, nofun, .inr ?_⟩
      obtain rfl | hrest := hrest
      · rw [List.append_nil]
        exact .last lits hshort hlits
      · exact .more lits rest hshort hlits hrest
    | succ k =>
      obtain ⟨hb, r, hr, -⟩ := cobsBlocks_literal_eq_ok_iff.mp h
      obtain ⟨lits, rest, rfl, rfl, hlits, hrest⟩ := ih (Nat.le_of_succ_le_succ hk) hr
      exact ⟨b :: lits, rest, rfl, rfl, List.forall_mem_cons.mpr ⟨hb, hlits⟩, hrest⟩

/-- Settles O45: before the first block's code byte no literal is open. -/
theorem decodeAcceptsGrammar : Obligations.DecodeAcceptsGrammar := by
  intro e
  constructor
  · rintro ⟨d, hd⟩
    obtain ⟨b, rfl, hb⟩ := cobsDecode_eq_ok_iff.mp hd
    obtain ⟨lits, rest, rfl, hlen, -, hrest⟩ := openBlock_of_cobsBlocks (Nat.zero_le _) hb
    obtain rfl := List.length_eq_zero_iff.mp hlen
    obtain rfl | hrest := hrest
    · cases hb
    · exact ⟨rest, hrest, rfl⟩
  · rintro ⟨b, hb, rfl⟩
    obtain ⟨d, hd⟩ := cobsBlocks_of_blockSeq hb
    exact ⟨d, cobsDecode_eq_ok_iff.mpr ⟨b, rfl, hd⟩⟩

end Sys2Proof.Machine
end

section
/-! PROOF. The life of a command: the host's write of CMD in its three cases, whose turn runs what, and which bytes
and fields a completion leaves alone. -/

namespace Sys2Proof.Machine

/-! ### The host's write of CMD -/

/-- While BUSY, a write of CMD is ignored (R103). -/
theorem writeCmd_of_busy {s : State} (hb : s.status.busy = true) (w : Word) : s.writeCmd w = .next s := by
  rw [State.writeCmd, if_pos hb]

/-- While BUSY is 0, word 0 is ACK (R102). -/
theorem writeCmd_zero_of_idle {s : State} (hb : s.status.busy = false) : s.writeCmd 0 = exec .ack s := by
  rw [State.writeCmd, if_neg (by simp [hb]), if_pos rfl]

/-- The host's access that issues ACK while BUSY is 0 (R81, R102). -/
theorem access_issue_ack {s : State} (hb : s.status.busy = false) : s.access (issueOp s.cfg 0) = exec .ack s :=
  (access_issueOp s 0).trans (writeCmd_zero_of_idle hb)

/-- The engine takes no step while BUSY is 0 (R104). -/
theorem engineStep_of_idle {s : State} (hb : s.status.busy = false) : s.engineStep = .next s := by
  rw [State.engineStep, if_neg (by simp [hb])]

/-- Without a completion to acknowledge, ACK finds ERR and ECODE clear already (R109, R110). -/
theorem State.Inv.acked_of_not_done {s : State} (h : s.Inv) (hdone : s.status.done = false) :
    s.status.acked = s.status := by
  have herr : s.status.err = false := Bool.eq_false_iff.mpr fun he => by simp [h.errDone he] at hdone
  have hecode : s.status.ecode = 0 := by
    by_contra hne
    simp [h.errCode.mpr hne] at herr
  calc s.status.acked = ⟨s.status.busy, s.status.done, s.status.err, s.status.ecode⟩ := by
        rw [hdone, herr, hecode, Status.acked]
    _ = s.status := rfl

/-- Settles O22: the write is the accept, which lists every field it changes. -/
theorem acceptLatchesCommand : Obligations.AcceptLatchesCommand := fun s w hb hw =>
  ⟨s.accept w, (access_issueOp s w).trans (writeCmd_of_idle hb hw), rfl, rfl⟩

/-- Settles O23: ACK leaves BUSY as it was, so the engine has no step after it. -/
theorem ackClearsCompletion : Obligations.AckClearsCompletion := by
  refine fun s => ⟨rfl, access_issue_ack, ?_, fun h hdone => ?_⟩
  · rintro t hb ⟨⟩
    exact engineStep_of_idle hb
  · exact congrArg (fun q => Host.Outcome.next { s with status := q }) (h.acked_of_not_done hdone)

/-- Settles O24: the issuing access is the write of CMD, which is ignored. -/
theorem busyIgnoresCmdWrite : Obligations.BusyIgnoresCmdWrite := fun s w hb =>
  (access_issueOp s w).trans (writeCmd_of_busy hb w)

/-! ### Whose turn runs what -/

/-- A turn that is set next is taken, and comes off the list (log entry 5). -/
theorem step_of_turn {s : State} {tn : Turn} (h : s.turns.head? = some tn) : step s = s.popTurn.takeTurn tn := by
  obtain ⟨ts, hts⟩ := List.head?_eq_some_iff.mp h
  rw [step, State.advance, hts]

/-- With no turn set, an enabled engine moves first (log entry 5). -/
theorem step_of_no_turn_busy {s : State} (h : s.turns = []) (hb : s.status.busy = true) :
    step s = s.popTurn.engineStep := by
  rw [popTurn_of_nil h, step, State.advance, h]
  exact if_pos hb

/-- With no turn set and no command in flight, the host moves (log entry 5). -/
theorem step_of_no_turn_idle {s : State} (h : s.turns = []) (hb : s.status.busy = false) :
    step s = s.popTurn.hostStep := by
  rw [popTurn_of_nil h, step, State.advance, h]
  exact if_neg (by simp [hb])

/-- The host's turn makes its next transaction, which comes off its program (R100). -/
theorem hostStep_of_bus {s : State} {op : BusOp} (h : s.prog.head? = some (.bus op)) :
    s.hostStep = s.popOp.access op := by
  obtain ⟨rest, hrest⟩ := List.head?_eq_some_iff.mp h
  rw [State.hostStep, hrest]

/-- The engine's turn, set or not, is exec of the command in flight (R111). -/
theorem step_of_inFlight {s : State} {i : Instr} (ht : s.turns.head? = some .engine ∨ s.turns = [])
    (h : s.InFlight i) : step s = exec i s.popTurn := by
  have hpop : s.popTurn.InFlight i := h
  rw [← engineStep_of_inFlight hpop]
  obtain ⟨hbusy, -⟩ := h
  obtain hengine | hnone := ht
  · exact step_of_turn hengine
  · exact step_of_no_turn_busy hnone hbusy

/-- The host's turn, set or not, is exec of ACK when the host's next transaction issues it (R102). -/
theorem step_of_issued_ack {s : State} (ht : s.turns.head? = some .host ∨ s.turns = [])
    (hb : s.status.busy = false) (hprog : s.prog.head? = some (.bus (issueOp s.cfg 0))) :
    step s = exec .ack s.popTurn.popOp := by
  have hhost : s.popTurn.hostStep = exec .ack s.popTurn.popOp :=
    (hostStep_of_bus (s := s.popTurn) hprog).trans (access_issue_ack (s := s.popTurn.popOp) hb)
  rw [← hhost]
  obtain hturn | hnone := ht
  · exact step_of_turn hturn
  · exact step_of_no_turn_idle hnone hb

/-- Settles O5: by the agent whose turn it is. -/
theorem stepRunsDecodedCommand : Obligations.StepRunsDecodedCommand :=
  ⟨fun _ _ => step_of_inFlight, fun _ => step_of_issued_ack,
    fun s ht hb => (step_of_turn ht).trans (engineStep_of_idle (s := s.popTurn) hb), fun _ => step_of_turn⟩

/-! ### A placed command word -/

/-- A whole 32-bit word is placed as it is. -/
theorem withFetchWord_word (s : State) (w : Word) : s.withFetchWord 32 w.toNat = s.stage w := by
  rw [State.withFetchWord, Nat.mod_eq_of_lt w.isLt, BitVec.ofNat_toNat, BitVec.setWidth_eq]

/-- Word 0 is placed as the host's next transaction (log entry 6). -/
theorem stage_zero (s : State) :
    s.stage 0 = { s with
      status := { s.status with busy := false }
      prog := .bus (issueOp s.cfg 0) :: s.prog
      turns := .host :: s.turns } := rfl

/-- Any other word is placed as the command in flight (log entry 6). -/
theorem stage_of_ne_zero {w : Word} (s : State) (hw : w ≠ 0) :
    s.stage w = { s.accept w with turns := .engine :: s.turns } := if_neg hw

theorem encode_ne_zero {i : Instr} (hi : i ≠ .ack) : encode i ≠ 0 := by
  cases i with
  | ack => exact absurd rfl hi
  | crc8 | cobsEnc | cobsDec | packetize | depacketize => exact (by decide)

/-- Right after its accept a command is the one in flight (R101, R104). -/
theorem accept_inFlight (s : State) (i : Instr) : (s.accept (encode i)).InFlight i :=
  ⟨rfl, encodeThenDecode i (by cases i <;> rfl)⟩

/-- Settles O6: ACK is the host's next transaction, any other word the command in flight. -/
theorem fetchedWordRuns : Obligations.FetchedWordRuns := by
  refine fun s => ⟨?_, fun i hi => ?_⟩
  · rw [withFetchWord_word]
    refine (congrArg step (stage_zero s)).trans ?_
    exact step_of_issued_ack (.inl rfl) rfl rfl
  · rw [withFetchWord_word, stage_of_ne_zero s (encode_ne_zero hi)]
    exact step_of_inFlight (.inl rfl) (accept_inFlight s i)

/-! ### What a completion leaves alone -/

/-- A state that differs in STATUS, RESULT, OUTLEN, ERRPOS and BUF at most, and in the model's draw count: what R112
lets a completion change. -/
def CompletionFrame (s t : State) : Prop :=
  t = { s with status := t.status, result := t.result, outLen := t.outLen, errPos := t.errPos, buf := t.buf,
               draws := t.draws }

theorem CompletionFrame.trans {s t u : State} (h : CompletionFrame s t) (h' : CompletionFrame t u) :
    CompletionFrame s u := by
  unfold CompletionFrame at h h' ⊢
  exact h'.trans (by rw [h])

theorem deliver_frame (s : State) (a n : Nat) (r : Except Failure (List Byte)) :
    CompletionFrame s (s.deliver a n r) := by
  cases r <;> rfl

theorem judge_frame (s : State) (r : List Byte) : CompletionFrame s (s.judge r) := by
  obtain ⟨c, ht | ht⟩ := judge_cases s r <;> rw [ht] <;> rfl

/-- The end of an encoding or decoding writes no byte outside its window. -/
theorem read_deliver_of_outside {s : State} {a n b : Nat} {r : Except Failure (List Byte)}
    (hr : ∀ d, r = .ok d → d.length = n) (hb : b < a ∨ a + n ≤ b) :
    Memory.read (s.deliver a n r).buf b = Memory.read s.buf b := by
  cases r with
  | error x => exact Memory.read_writeBytes_outside _ _ (by rwa [freeBytes_length])
  | ok d => exact Memory.read_writeBytes_outside _ _ (by rwa [hr d rfl])

theorem length_of_encode_memRead {s : State} {a n : Nat} {d : List Byte} (h : cobsEncode (s.memRead a n) = .ok d) :
    d.length = n + 2 := by
  simpa [State.memRead] using cobsEncode_length h

theorem length_of_decode_memRead {s : State} {a n : Nat} {d : List Byte} (h : cobsDecode (s.memRead a n) = .ok d) :
    d.length = n - 2 := by
  have hlen := cobsDecode_length h
  simp only [State.memRead, Memory.readBytes_length] at hlen
  omega

/-- A command's own effect changes only the fields of R112. -/
theorem afterChecks_frame (i : Instr) (s : State) : CompletionFrame s (afterChecks i s) := by
  cases i with
  | ack | crc8 => rfl
  | cobsEnc | cobsDec => exact deliver_frame s _ _ _
  | packetize =>
    refine CompletionFrame.trans ?_ (deliver_frame _ _ _ _)
    rfl
  | depacketize =>
    simp only [afterChecks, bodyDepacketize]
    split
    · rfl
    · exact judge_frame s _

/-- A command that passed its checks writes no byte outside its windows (R112). -/
theorem read_afterChecks_of_unwritten {i : Instr} {s : State} {a : Nat} (hchecks : checks i s = none)
    (h : Unwritten i s a) : Memory.read (afterChecks i s).buf a = Memory.read s.buf a := by
  obtain ⟨hout, hslot⟩ := h
  replace hout v hv := Window.has_eq_false_iff.mp (hout v hv)
  replace hslot v hv := Window.has_eq_false_iff.mp (hslot v hv)
  cases i with
  | ack | crc8 => rfl
  | cobsEnc => exact read_deliver_of_outside (fun _ => length_of_encode_memRead) (hout _ rfl)
  | cobsDec => exact read_deliver_of_outside (fun _ => length_of_decode_memRead) (hout _ rfl)
  | packetize =>
    refine (read_deliver_of_outside (n := s.lenN + 2) (fun d hd => ?_) (hout _ rfl)).trans
      (Memory.read_writeBytes_outside _ _ (hslot _ rfl))
    have hpos := lenN_pos_of_checks_packetize hchecks
    have hlen := cobsEncode_length hd
    simp [State.memRead] at hlen
    omega
  | depacketize =>
    simp only [afterChecks, bodyDepacketize]
    split
    · next x _ => exact read_deliver_of_outside (r := .error x) nofun (hout _ rfl)
    · next r hr =>
      have hlen : r.length = s.lenN := length_of_decode_memRead hr
      rw [judge_buf]
      exact Memory.read_writeBytes_outside _ _ (hlen.symm ▸ hout _ rfl)

/-- Settles O31: a command's completion by its two ends, a failed check or its own effect; the other three by what
they list. -/
theorem commandFrame : Obligations.CommandFrame := by
  refine ⟨fun i s t h => ?_, ?_, fun s => ?_, fun s w => ⟨Status.accepted, rfl⟩⟩
  · obtain ⟨e, -, rfl⟩ | ⟨hchecks, rfl⟩ := exec_cases h
    · exact ⟨rfl, fun _ _ => rfl⟩
    · exact ⟨afterChecks_frame i s, fun _ => read_afterChecks_of_unwritten hchecks⟩
  · rintro s t ⟨⟩
    rfl
  · rw [← keepBits_zero s.cfg.addrW]
    rfl

end Sys2Proof.Machine
end

section
/-! PROOF. The checksum: what its input loop does to the register, the register as a fold, when two sequences have the
same checksum, and the command CRC8; and the parameters, which no step changes. -/

namespace Sys2Proof.Machine

/-! ### One input byte -/

/-- One pass of the loop sets bit 0 when it subtracts a poly with bit 0 (R120). -/
theorem getLsbD_zero_crcShift (poly c : Byte) :
    (crcShift poly c).getLsbD 0 = (c.getLsbD 7 && poly.getLsbD 0) := by
  unfold crcShift
  cases c.getLsbD 7 <;> simp

/-- Every other bit moves up by one, and poly is subtracted from it when bit 7 was shifted out (R120). -/
theorem getLsbD_succ_crcShift (poly c : Byte) {i : Nat} (hi : i < 7) :
    (crcShift poly c).getLsbD (i + 1) = (c.getLsbD i ^^ (c.getLsbD 7 && poly.getLsbD (i + 1))) := by
  have hup : (c <<< 1).getLsbD (i + 1) = c.getLsbD i := by
    simpa [BitVec.getLsbD_shiftLeft] using fun _ => by omega
  unfold crcShift
  cases c.getLsbD 7 <;> simp [hup]

/-- With poly's bit 0 set one pass loses nothing: bit 0 of the result tells whether poly was subtracted (R128). -/
theorem crcShift_injective {poly : Byte} (h : poly.getLsbD 0 = true) : Function.Injective (crcShift poly) := by
  intro c d hcd
  have htop : c.getLsbD 7 = d.getLsbD 7 := by
    have hbit := congrArg (·.getLsbD 0) hcd
    simpa only [getLsbD_zero_crcShift, h, Bool.and_true] using hbit
  refine BitVec.eq_of_getLsbD_eq fun i hi => ?_
  obtain rfl | hlow := Nat.eq_or_lt_of_le (Nat.le_of_lt_succ hi)
  · exact htop
  · have hbit := congrArg (·.getLsbD (i + 1)) hcd
    simpa only [getLsbD_succ_crcShift _ _ hlow, htop, Bool.xor_left_inj] using hbit

/-- So nor do the eight passes. -/
theorem crcTable_injective {poly : Byte} (h : poly.getLsbD 0 = true) : Function.Injective (crcTable poly) :=
  (crcShift_injective h).iterate 8

@[simp] theorem crcTable_zero (poly : Byte) : crcTable poly 0 = 0 := by
  have hshift : crcShift poly 0 = 0 := by simp [crcShift]
  simp only [crcTable, hshift]

/-- The last of the eight passes leaves bit 0 clear when poly's is. -/
theorem getLsbD_zero_crcTable {poly : Byte} (h : poly.getLsbD 0 = false) (c : Byte) :
    (crcTable poly c).getLsbD 0 = false := by
  rw [crcTable, getLsbD_zero_crcShift, h, Bool.and_false]

/-- Reflection reads a byte's bits from the other end (R120). -/
theorem getLsbD_rev8 (b : Byte) {i : Nat} (hi : i < 8) : (rev8 b).getLsbD i = b.getLsbD (7 - i) := by
  interval_cases i <;> simp [rev8, BitVec.ofBoolListBE, BitVec.getElem_cons]

theorem rev8_involutive : Function.Involutive rev8 := fun b => BitVec.eq_of_getLsbD_eq fun i hi => by
  rw [getLsbD_rev8 _ hi, getLsbD_rev8 _ (by omega), Nat.sub_sub_self (by omega)]

section
variable {P : CrcParams} (h : P.poly.getLsbD 0 = true)
include h

/-- An input byte keeps different registers apart. -/
theorem crcByte_left_injective (b : Byte) : Function.Injective (crcByte P · b) := fun _ _ hcd =>
  (BitVec.xor_left_inj _).mp (crcTable_injective h hcd)

/-- Different input bytes lead one register apart, reflected or not. -/
theorem crcByte_right_injective (c : Byte) : Function.Injective (crcByte P c) := by
  intro a b hab
  have hin := (BitVec.xor_right_inj _).mp (crcTable_injective h hab)
  split at hin
  · exact rev8_involutive.injective hin
  · exact hin

end

/-! ### A sequence of bytes -/

/-- The register runs over a sequence as a left fold. -/
theorem crcRun_eq_foldl (P : CrcParams) (c : Byte) (d : List Byte) : crcRun P c d = d.foldl (crcByte P) c := by
  induction d generalizing c with
  | nil => rfl
  | cons b d ih => exact ih (crcByte P c b)

theorem crcRun_append (P : CrcParams) (c : Byte) (d e : List Byte) :
    crcRun P c (d ++ e) = crcRun P (crcRun P c d) e := by
  simp only [crcRun_eq_foldl, List.foldl_append]

theorem crcRun_injective {P : CrcParams} (h : P.poly.getLsbD 0 = true) (d : List Byte) :
    Function.Injective (crcRun P · d) := by
  induction d with
  | nil => exact Function.injective_id
  | cons b d ih => exact ih.comp (crcByte_left_injective h b)

/-- The final reflection and xor hide nothing of the register. -/
theorem crc8_eq_crc8_iff {P : CrcParams} {d e : List Byte} :
    crc8 P d = crc8 P e ↔ crcRun P P.init d = crcRun P P.init e := by
  unfold crc8
  split <;> simp [rev8_involutive.injective.eq_iff]

/-- Settles O51: the changed byte leads the register apart, and the bytes after it keep it so. -/
theorem crcSingleByteDetection : Obligations.CrcSingleByteDetection := by
  intro P hpoly _ pre post a b hab heq
  rw [crc8_eq_crc8_iff, crcRun_append, crcRun_append] at heq
  exact hab (crcByte_right_injective hpoly _ (crcRun_injective hpoly post heq))

/-! ### Without reflection -/

/-- Without input reflection a byte is one step of the table (R126). -/
theorem crcByte_of_not_refin {P : CrcParams} (hin : P.refin = false) :
    crcByte P = fun c b => crcTable P.poly (c ^^^ b) := by
  simp [funext_iff, crcByte, hin]

theorem crc8_of_not_refout {P : CrcParams} (hout : P.refout = false) (d : List Byte) :
    crc8 P d = crcRun P P.init d ^^^ P.xorout := by
  simp [crc8, hout]

section
variable {P : CrcParams} (hin : P.refin = false) (hout : P.refout = false) (hxor : P.xorout = 0)
include hin hout hxor

/-- Without a final xor either, one more byte is one more step of the table. -/
theorem crc8_append_singleton (m : List Byte) (b : Byte) :
    crc8 P (m ++ [b]) = crcTable P.poly (crc8 P m ^^^ b) := by
  have hreg (d : List Byte) : crc8 P d = crcRun P P.init d := by simp [crc8_of_not_refout hout, hxor]
  rw [hreg, hreg, crcRun_append, crcRun, crcRun, crcByte_of_not_refin hin]

/-- R123's constraint forces poly's bit 0: its value 0x35 is odd. -/
theorem poly_getLsbD_zero_of_legal (hlegal : P.legal = true) : P.poly.getLsbD 0 = true := by
  have hodd : (crc8 P ([0x01, 0x00] ++ [0x02])).getLsbD 0 = true := by
    rw [show crc8 P ([0x01, 0x00] ++ [0x02]) = 0x35 from eq_of_beq hlegal]
    rfl
  by_contra hpoly
  rw [crc8_append_singleton hin hout hxor, getLsbD_zero_crcTable (Bool.eq_false_iff.mpr hpoly)] at hodd
  cases hodd

end

/-- Settles O49: the fold of the table's step, and the 256 entries by evaluation. -/
theorem crcTableForm : Obligations.CrcTableForm := by
  refine ⟨fun P d hin hout => ?_, by decide +kernel⟩
  rw [crc8_of_not_refout hout, crcRun_eq_foldl, crcByte_of_not_refin hin]

/-- Settles O50: the register and its own value cancel, and T takes no other value to 0. -/
theorem crcZeroResidue : Obligations.CrcZeroResidue := by
  intro P hin hout hxor
  have happend := crc8_append_singleton hin hout hxor
  refine ⟨fun m => ?_, fun hlegal m b => ?_⟩
  · rw [happend, BitVec.xor_self]
    exact crcTable_zero P.poly
  · have hT := crcTable_injective (poly_getLsbD_zero_of_legal hin hout hxor hlegal)
    rw [happend, ← crcTable_zero P.poly, hT.eq_iff, xor_eq_zero_iff]

/-! ### The command CRC8 -/

/-- The one check that CRC8 can fail is BOUNDS, for its input window (R125). -/
theorem checks_crc8 (s : State) :
    checks .crc8 s = if s.cfg.bufSize < s.srcN + s.lenN then some .bounds else none := by
  by_cases h : s.cfg.bufSize < s.srcN + s.lenN <;>
    simp [checks, checkLen, checkBounds, checkOverlap, pastEnd, inWindow, outWindow, Window.top, h]

theorem exec_crc8_of_past {s : State} (h : s.cfg.bufSize < s.srcN + s.lenN) :
    exec .crc8 s = .next (s.raise { code := .bounds, pos := 0 }) := by
  rw [exec_eq_checked, State.checked, checks_crc8, if_pos h]

theorem exec_crc8_of_inside {s : State} (h : ¬ s.cfg.bufSize < s.srcN + s.lenN) :
    exec .crc8 s = .next (bodyCrc8 s) := by
  rw [exec_eq_checked, State.checked, checks_crc8, if_neg h]
  rfl

/-- Settles O26: the window past BUF or inside it, which L_DST has no part in. -/
theorem crc8Completes : Obligations.Crc8Completes := by
  intro s
  by_cases hpast : s.cfg.bufSize < s.lSrc.toNat + s.lLen.toNat
  · refine ⟨_, exec_crc8_of_past hpast, ?_, fun h hbusy => ?_,
      fun d => exec_crc8_of_past (s := { s with lDst := d }) hpast⟩
    · rw [if_pos hpast, EndedByCheck, ← keepBits_zero s.cfg.addrW]
      rfl
    · obtain ⟨-, houtLen, -⟩ := h.busyClear hbusy
      exact ⟨houtLen, keepBits_zero _⟩
  · refine ⟨_, exec_crc8_of_inside hpast, ?_, fun h hbusy => ?_,
      fun d => exec_crc8_of_inside (s := { s with lDst := d }) hpast⟩
    · rw [if_neg hpast]
      rfl
    · obtain ⟨-, houtLen, herrPos⟩ := h.busyClear hbusy
      exact ⟨houtLen, herrPos⟩

/-! ### The parameters -/

/-- A completion changes no parameter: none of the fields of R112 is one. -/
theorem exec_cfg {i : Instr} {s t : State} (h : exec i s = .next t) : t.cfg = s.cfg := by
  obtain ⟨hcompletion, -⟩ := commandFrame
  obtain ⟨hframe, -⟩ := hcompletion i s t h
  rw [hframe]

theorem access_cfg {s t : State} {op : BusOp} (h : s.access op = .next t) : t.cfg = s.cfg := by
  obtain ⟨-, w, rfl⟩ | ⟨-, hwrite⟩ := access_cases h
  · rfl
  · obtain rfl | ⟨b, rfl⟩ | ⟨n, rfl⟩ | ⟨n, rfl⟩ | ⟨n, rfl⟩ | ⟨a, d, -, rfl⟩ | ⟨-, hack⟩ | ⟨-, w, -, rfl⟩ :=
      hwrite
    exacts [rfl, rfl, rfl, rfl, rfl, rfl, exec_cfg hack, rfl]

theorem engineStep_cfg {s t : State} (h : s.engineStep = .next t) : t.cfg = s.cfg := by
  obtain ⟨-, rfl⟩ | ⟨-, i, -, hexec⟩ | ⟨-, -, rfl⟩ := engineStep_cases h
  · rfl
  · exact exec_cfg hexec
  · rfl

theorem waitStep_cfg (s : State) : s.waitStep.cfg = s.cfg := by
  unfold State.waitStep
  split <;> rfl

theorem hostStep_cfg {s t : State} (h : s.hostStep = .next t) : t.cfg = s.cfg := by
  obtain ⟨-, rfl⟩ | ⟨op, -, -, hop⟩ | ⟨-, -, rfl⟩ := hostStep_cases h
  · rfl
  · exact access_cfg (s := s.popOp) hop
  · exact waitStep_cfg s

/-- Settles O39: by the agent that moves; taking its turn off the list changes no parameter. -/
theorem parametersNeverChange : Obligations.ParametersNeverChange := by
  intro s t h
  obtain rfl | hengine | hhost := step_cases h
  · exact applyReset_cfg s.popTurn
  · exact engineStep_cfg (s := s.popTurn) hengine
  · exact hostStep_cfg (s := s.popTurn) hhost

end Sys2Proof.Machine
end

section
/-! PROOF. The encoder of R140 and R141: the runs of a sequence and the induction over them, what the scan does with a
run, the split form, the grammar and the run limit, and the command COBS_ENC. -/

namespace Sys2Proof.Machine

/-! ### The runs of a sequence -/

/-- What a block can carry: at most 254 bytes, none of them 0x00 (R75, R140). -/
structure ShortRun (run : List Byte) : Prop where
  length_le : run.length ≤ 254
  ne_zero   : ∀ b ∈ run, b ≠ 0

theorem shortRun_nil : ShortRun [] := ⟨Nat.zero_le _, nofun⟩

theorem ShortRun.append_singleton {run : List Byte} {b : Byte} (h : ShortRun run) (hlen : run.length ≠ 254)
    (hb : b ≠ 0) : ShortRun (run ++ [b]) where
  length_le := by
    have := h.length_le
    rw [List.length_append, List.length_singleton]
    omega
  ne_zero := List.forall_mem_append.mpr ⟨h.ne_zero, List.forall_mem_singleton.mpr hb⟩

/-- Induction over the runs of a sequence, first run first: it is one short run, or a short run with a 0x00 and a
sequence after it, or it starts with 255 bytes other than 0x00. -/
theorem runs_induction {motive : List Byte → Prop}
    (last : ∀ run, ShortRun run → motive run)
    (more : ∀ run d, ShortRun run → motive d → motive (run ++ 0 :: d))
    (overlong : ∀ run b d, ShortRun run → run.length = 254 → b ≠ 0 → motive (run ++ b :: d))
    (d : List Byte) : motive d := by
  suffices hopen : ∀ run, ShortRun run → motive (run ++ d) from hopen [] shortRun_nil
  induction d with
  | nil =>
    intro run h
    rw [List.append_nil]
    exact last run h
  | cons b d ih =>
    intro run h
    by_cases hb : b = 0
    · exact hb ▸ more run d h (ih [] shortRun_nil)
    · by_cases hlen : run.length = 254
      · exact overlong run b d h hlen hb
      · rw [List.append_cons]
        exact ih (run ++ [b]) (h.append_singleton hlen hb)

/-! ### The scan, run by run -/

/-- The scan takes the literals of a short run into the open run (R141). -/
theorem cobsScan_append {i : Nat} {run lits rest : List Byte} (h : ShortRun (run ++ lits)) :
    cobsScan i run (lits ++ rest) = cobsScan (i + lits.length) (run ++ lits) rest := by
  induction lits generalizing i run with
  | nil => simp
  | cons b lits ih =>
    have hb : b ≠ 0 := h.ne_zero b (by simp)
    have hlen : run.length + 1 ≠ 255 := by
      have := h.length_le
      simp at this
      omega
    have hrun : run ++ b :: lits = run ++ [b] ++ lits := by simp
    rw [List.cons_append, cobsScan, if_neg hb, if_neg hlen, ih (hrun ▸ h), ← hrun, List.length_cons,
      Nat.add_right_comm, Nat.add_assoc]

section
variable {i : Nat} {run : List Byte} (h : ShortRun run)
include h

/-- A last run gives its block. -/
theorem cobsScan_last : cobsScan i [] run = .ok (cobsBlock run) := by
  simpa [cobsScan] using cobsScan_append (i := i) (run := []) (rest := []) h

/-- A run before a 0x00 gives its block, and the scan goes on after the 0x00. -/
theorem cobsScan_more (d : List Byte) :
    cobsScan i [] (run ++ 0 :: d) = (cobsScan (i + run.length + 1) [] d).map (cobsBlock run ++ ·) := by
  rw [cobsScan_append (run := []) h, cobsScan, if_pos rfl]
  cases cobsScan (i + run.length + 1) [] d <;> rfl

theorem cobsScan_more_eq_ok_iff {d out : List Byte} :
    cobsScan i [] (run ++ 0 :: d) = .ok out ↔
      ∃ rest, cobsScan (i + run.length + 1) [] d = .ok rest ∧ cobsBlock run ++ rest = out := by
  rw [cobsScan_more h]
  cases cobsScan (i + run.length + 1) [] d <;> simp [Except.map]

theorem cobsScan_more_eq_error_iff {d : List Byte} {x : Failure} :
    cobsScan i [] (run ++ 0 :: d) = .error x ↔ cobsScan (i + run.length + 1) [] d = .error x := by
  rw [cobsScan_more h]
  cases cobsScan (i + run.length + 1) [] d <;> simp [Except.map]

/-- A run of 254 bytes has no room for another literal (R142). -/
theorem cobsScan_overlong {b : Byte} (d : List Byte) (hlen : run.length = 254) (hb : b ≠ 0) :
    cobsScan i [] (run ++ b :: d) = .error { code := .runTooLong, pos := i + 254 } := by
  rw [cobsScan_append (run := []) h, cobsScan, if_neg hb, if_pos (by simp [hlen]), hlen]

end

/-! ### The split form -/

theorem cobsRuns_ne_nil (d : List Byte) : cobsRuns d ≠ [] := by
  cases d with
  | nil => nofun
  | cons b d =>
    unfold cobsRuns
    split
    · nofun
    · split <;> nofun

/-- A byte other than 0x00 joins the first run of what follows (R140). -/
theorem cobsRuns_cons_of_ne_zero {b : Byte} {d r : List Byte} {rs : List (List Byte)} (hb : b ≠ 0)
    (hd : cobsRuns d = r :: rs) : cobsRuns (b :: d) = (b :: r) :: rs := by
  rw [cobsRuns, hd]
  exact if_neg hb

/-- So do the bytes of a run. -/
theorem cobsRuns_append {run d r : List Byte} {rs : List (List Byte)} (hrun : ∀ b ∈ run, b ≠ 0)
    (hd : cobsRuns d = r :: rs) : cobsRuns (run ++ d) = (run ++ r) :: rs := by
  induction run with
  | nil => exact hd
  | cons b run ih =>
    obtain ⟨hb, hrun⟩ := List.forall_mem_cons.mp hrun
    exact cobsRuns_cons_of_ne_zero hb (ih hrun)

/-- A 0x00 cuts: the run before it is empty (R140). -/
theorem cobsRuns_zero_cons (d : List Byte) : cobsRuns (0 :: d) = [] :: cobsRuns d := by
  obtain ⟨r, rs, hd⟩ := List.exists_cons_of_ne_nil (cobsRuns_ne_nil d)
  rw [cobsRuns, hd]
  exact if_pos rfl

/-- The split form for a sequence that starts at index i of the input. -/
def cobsSplit (i : Nat) (d : List Byte) : Except Failure (List Byte) :=
  match cobsOverlong i (cobsRuns d) with
  | some j => .error { code := .runTooLong, pos := j }
  | none => .ok ((cobsRuns d).flatMap cobsBlock)

theorem cobsSplit_of_overlong {i j : Nat} {d : List Byte} (h : cobsOverlong i (cobsRuns d) = some j) :
    cobsSplit i d = .error { code := .runTooLong, pos := j } := by
  rw [cobsSplit, h]

theorem cobsOverlong_cons_of_short {i : Nat} {run : List Byte} (h : ShortRun run) (rs : List (List Byte)) :
    cobsOverlong i (run :: rs) = cobsOverlong (i + run.length + 1) rs := by
  rw [cobsOverlong, if_neg (Nat.not_lt.mpr h.length_le)]

/-- Scan and split form agree from every index on, run by run (R141). -/
theorem cobsScan_eq_cobsSplit (i : Nat) (d : List Byte) : cobsScan i [] d = cobsSplit i d := by
  induction d using runs_induction generalizing i with
  | last run h =>
    have hruns : cobsRuns run = [run] := by simpa using cobsRuns_append h.ne_zero (d := []) rfl
    rw [cobsScan_last h, cobsSplit, hruns, cobsOverlong_cons_of_short h]
    simp [cobsOverlong]
  | more run d h ih =>
    have hruns : cobsRuns (run ++ 0 :: d) = run :: cobsRuns d := by
      simpa using cobsRuns_append h.ne_zero (cobsRuns_zero_cons d)
    rw [cobsScan_more h, ih, cobsSplit, cobsSplit, hruns, cobsOverlong_cons_of_short h]
    cases cobsOverlong (i + run.length + 1) (cobsRuns d) <;> rfl
  | overlong run b d h hlen hb =>
    obtain ⟨r, rs, hd⟩ := List.exists_cons_of_ne_nil (cobsRuns_ne_nil d)
    have hruns := cobsRuns_append h.ne_zero (cobsRuns_cons_of_ne_zero hb hd)
    have hlong : 254 < (run ++ b :: r).length := by simp [hlen]
    rw [cobsScan_overlong h d hlen hb, cobsSplit_of_overlong (j := i + 254)]
    rw [hruns, cobsOverlong, if_pos hlong]

/-- Settles O40: both forms put the delimiter before what they give from index 0 on. -/
theorem encodeFormsAgree : Obligations.EncodeFormsAgree := by
  intro d
  rw [cobsEncode, cobsScan_eq_cobsSplit, cobsSplit, cobsEncodeSplit]
  cases cobsOverlong 0 (cobsRuns d) <;> rfl

/-- Settles O41: the delimiter, and one code byte more than there are 0x00s. -/
theorem encodeLength : Obligations.EncodeLength := fun _ _ => cobsEncode_length

/-! ### The grammar -/

theorem cobsEncode_eq_ok_iff {d e : List Byte} :
    cobsEncode d = .ok e ↔ ∃ out, cobsScan 0 [] d = .ok out ∧ 0x00 :: out = e := by
  unfold cobsEncode
  cases cobsScan 0 [] d <;> simp

theorem cobsEncode_eq_error_iff {d : List Byte} {x : Failure} :
    cobsEncode d = .error x ↔ cobsScan 0 [] d = .error x := by
  unfold cobsEncode
  cases cobsScan 0 [] d <;> simp

/-- The code byte of a run's block is not 0, and nor are its literals (R77). -/
theorem ShortRun.cobsBlock_ne_zero {run : List Byte} (h : ShortRun run) : ∀ b ∈ cobsBlock run, b ≠ 0 := by
  refine List.forall_mem_cons.mpr ⟨fun hcode => ?_, h.ne_zero⟩
  simpa [codeByte_toNat h.length_le] using congrArg BitVec.toNat hcode

/-- Blocks hold no 0x00. -/
theorem BlockSeq.ne_zero {e : List Byte} (h : BlockSeq e) : ∀ b ∈ e, b ≠ 0 := by
  induction h with
  | last lits hlen hlits => exact ShortRun.cobsBlock_ne_zero ⟨hlen, hlits⟩
  | more lits rest hlen hlits _ ih =>
    exact List.forall_mem_append.mpr ⟨ShortRun.cobsBlock_ne_zero ⟨hlen, hlits⟩, ih⟩

/-- What the scan appends is a sequence of blocks, one for each run (R75). -/
theorem blockSeq_of_cobsScan {i : Nat} {d out : List Byte} (hout : cobsScan i [] d = .ok out) : BlockSeq out := by
  induction d using runs_induction generalizing i out with
  | last run h =>
    rw [cobsScan_last h] at hout
    cases hout
    exact .last run h.length_le h.ne_zero
  | more run d h ih =>
    obtain ⟨rest, hrest, rfl⟩ := (cobsScan_more_eq_ok_iff h).mp hout
    exact .more run rest h.length_le h.ne_zero (ih hrest)
  | overlong run b d h hlen hb =>
    rw [cobsScan_overlong h d hlen hb] at hout
    cases hout

/-- Settles O42: the delimiter before blocks, and the decoder accepts the grammar. -/
theorem encodeZeroFree : Obligations.EncodeZeroFree := by
  intro d e he
  obtain ⟨out, hout, rfl⟩ := cobsEncode_eq_ok_iff.mp he
  have hblocks := blockSeq_of_cobsScan hout
  have hgrammar : Encoded (0x00 :: out) := ⟨out, hblocks, rfl⟩
  refine ⟨rfl, fun k hpos hk => ?_, hgrammar, (decodeAcceptsGrammar _).mpr hgrammar⟩
  obtain ⟨j, rfl⟩ := Nat.exists_eq_add_of_le' hpos
  have hj : j < out.length := Nat.lt_of_succ_lt_succ hk
  rw [List.getD_cons_succ, List.getD_eq_getElem _ _ hj]
  exact hblocks.ne_zero _ (List.getElem_mem hj)

/-! ### The run limit -/

/-- Where a long run stands when bytes are put in front. -/
theorem longRunAt_append (pre d : List Byte) (a : Nat) :
    LongRunAt (pre ++ d) (pre.length + a) ↔ LongRunAt d a := by
  have hget (k : Nat) : (pre ++ d).getD (pre.length + a + k) 0 = d.getD (a + k) 0 := by
    rw [List.getD_append_right _ _ _ _ (by omega)]
    congr 1
    omega
  have hlen : pre.length + a + 255 ≤ (pre ++ d).length ↔ a + 255 ≤ d.length := by
    rw [List.length_append, Nat.add_assoc, Nat.add_le_add_iff_left]
  simp only [LongRunAt, hget, hlen]

/-- No long run reaches into a short run that a 0x00 ends: it stands in the sequence after it. -/
theorem longRunAt_more_iff {run d : List Byte} {a : Nat} (h : ShortRun run) :
    LongRunAt (run ++ 0 :: d) a ↔ ∃ a', a = run.length + 1 + a' ∧ LongRunAt d a' := by
  have hafter (a' : Nat) : LongRunAt (run ++ 0 :: d) (run.length + 1 + a') ↔ LongRunAt d a' := by
    rw [List.append_cons, ← longRunAt_append (run ++ [0]) d, List.length_append, List.length_singleton]
  constructor
  · intro hlong
    have hbeyond : run.length + 1 ≤ a := by
      by_contra hle
      obtain ⟨-, hne⟩ := hlong
      have hshort := h.length_le
      refine hne (run.length - a) (by omega) ?_
      rw [show a + (run.length - a) = run.length by omega]
      simp
    obtain ⟨a', rfl⟩ := Nat.exists_eq_add_of_le hbeyond
    exact ⟨a', rfl, (hafter a').mp hlong⟩
  · rintro ⟨a', rfl, hlong⟩
    exact (hafter a').mpr hlong

/-- A sequence no longer than a block has no long run. -/
theorem ShortRun.not_longRunAt {run : List Byte} (h : ShortRun run) (a : Nat) : ¬LongRunAt run a := by
  rintro ⟨hlen, -⟩
  have := h.length_le
  omega

/-- 255 bytes other than 0x00 are a long run. -/
theorem longRunAt_overlong {run : List Byte} {b : Byte} (d : List Byte) (h : ShortRun run) (hlen : run.length = 254)
    (hb : b ≠ 0) : LongRunAt (run ++ b :: d) 0 := by
  have hne : ∀ c ∈ run ++ [b], c ≠ 0 := List.forall_mem_append.mpr ⟨h.ne_zero, List.forall_mem_singleton.mpr hb⟩
  refine ⟨?_, fun k hk => ?_⟩
  · simp only [List.length_append, List.length_cons, hlen]
    omega
  have hk' : k < (run ++ [b]).length := by simpa [hlen] using hk
  rw [Nat.zero_add, List.append_cons, List.getD_append _ _ _ _ hk', List.getD_eq_getElem _ _ hk']
  exact hne _ (List.getElem_mem hk')

theorem not_longRunAt_of_cobsScan {i : Nat} {d out : List Byte} (hout : cobsScan i [] d = .ok out) (a : Nat) :
    ¬LongRunAt d a := by
  induction d using runs_induction generalizing i out a with
  | last run h => exact h.not_longRunAt a
  | more run d h ih =>
    intro hlong
    obtain ⟨a', -, hlong'⟩ := (longRunAt_more_iff h).mp hlong
    obtain ⟨rest, hrest, -⟩ := (cobsScan_more_eq_ok_iff h).mp hout
    exact ih hrest a' hlong'
  | overlong run b d h hlen hb =>
    rw [cobsScan_overlong h d hlen hb] at hout
    cases hout

/-- The scan fails at the 255th byte of the first long run (R142). -/
theorem firstLongRun_of_cobsScan {i : Nat} {d : List Byte} {x : Failure} (hx : cobsScan i [] d = .error x) :
    ∃ a, x.pos = i + a + 254 ∧ LongRunAt d a ∧ ∀ a', LongRunAt d a' → a ≤ a' := by
  induction d using runs_induction generalizing i with
  | last run h =>
    rw [cobsScan_last h] at hx
    cases hx
  | more run d h ih =>
    obtain ⟨a, hpos, hlong, hleast⟩ := ih ((cobsScan_more_eq_error_iff h).mp hx)
    refine ⟨run.length + 1 + a, by omega, (longRunAt_more_iff h).mpr ⟨a, rfl, hlong⟩, fun b hb => ?_⟩
    obtain ⟨a', rfl, hlong'⟩ := (longRunAt_more_iff h).mp hb
    exact Nat.add_le_add_left (hleast a' hlong') _
  | overlong run b d h hlen hb =>
    rw [cobsScan_overlong h d hlen hb] at hx
    cases hx
    exact ⟨0, rfl, longRunAt_overlong d h hlen hb, fun _ _ => Nat.zero_le _⟩

/-- The encoder fails at the 255th byte of the first long run (R142). -/
theorem firstLongRun_of_cobsEncode {d : List Byte} {x : Failure} (hx : cobsEncode d = .error x) :
    ∃ a, x.pos = a + 254 ∧ LongRunAt d a ∧ ∀ a', LongRunAt d a' → a ≤ a' := by
  simpa using firstLongRun_of_cobsScan (cobsEncode_eq_error_iff.mp hx)

/-- Settles O43: a failure names the first long run, and an encoding leaves no place for one. -/
theorem encodeRunLimit : Obligations.EncodeRunLimit := by
  refine fun d => ⟨⟨?_, ?_⟩, fun x hx => ?_⟩
  · rintro ⟨x, hx⟩
    obtain ⟨a, -, hlong, -⟩ := firstLongRun_of_cobsEncode hx
    exact ⟨a, hlong⟩
  · rintro ⟨a, hlong⟩
    cases he : cobsEncode d with
    | error x => exact ⟨x, rfl⟩
    | ok e =>
      obtain ⟨out, hout, -⟩ := cobsEncode_eq_ok_iff.mp he
      exact absurd hlong (not_longRunAt_of_cobsScan hout a)
  · obtain ⟨a, hpos, hlong, hleast⟩ := firstLongRun_of_cobsEncode hx
    have ⟨hlen, _⟩ := hlong
    exact ⟨(Nat.le_add_left _ _).trans hlen, cobsEncode_error hx, a, hpos, hlong, hleast⟩

/-! ### The checks of a command with two windows -/

/-- Two windows share a byte if neither is empty and each starts before the other's end (R108). -/
theorem Window.meets_iff {v w : Window} :
    v.meets w = true ↔ 0 < v.len ∧ 0 < w.len ∧ v.base < w.top ∧ w.base < v.top := by
  simp [Window.meets, and_assoc]

/-- After its length check a command with two windows can fail BOUNDS and then OVERLAP (R107, R108, R111). -/
theorem checks_of_windows {i : Instr} {s : State} {v w : Window} (hlen : checkLen i s = none)
    (hv : inWindow i s = some v) (hw : outWindow i s = some w) :
    checks i s =
      if s.cfg.bufSize < v.top ∨ s.cfg.bufSize < w.top then some .bounds
      else if v.meets w then some .overlap else none := by
  have hbounds : checkBounds i s =
      if s.cfg.bufSize < v.top ∨ s.cfg.bufSize < w.top then some .bounds else none := by
    simp [checkBounds, pastEnd, hv, hw]
  have hoverlap : checkOverlap i s = if v.meets w then some .overlap else none := by
    rw [checkOverlap, hv, hw]
  by_cases hpast : s.cfg.bufSize < v.top ∨ s.cfg.bufSize < w.top
  · simp only [checks, hlen, hbounds, hpast, if_true]
  · simp only [checks, hlen, hbounds, hpast, if_false, hoverlap]

/-- A failed check ends the command and has no other effect (R111). -/
theorem checked_of_checks_some {s : State} {i : Instr} {e : ErrCode} (h : checks i s = some e)
    (body : State → State) :
    s.checked i body = s.raise { code := e, pos := 0 } := by
  rw [State.checked, h]

/-- A command that passed its checks runs (R111). -/
theorem checked_of_checks_none {s : State} {i : Instr} (h : checks i s = none) (body : State → State) :
    s.checked i body = body s := by
  rw [State.checked, h]

/-! ### The ends of a codec command -/

/-- A failed check ends a command with its code and position 0 (R106 to R108, R110). -/
theorem raise_endedByCheck (s : State) (e : ErrCode) : EndedByCheck s (s.raise { code := e, pos := 0 }) e.code := by
  rw [EndedByCheck, ← keepBits_zero s.cfg.addrW]
  rfl

/-- Neither end of the codec writes outside its window. -/
theorem deliver_agreeOutside {s : State} {a n : Nat} {r : Except Failure (List Byte)}
    (hr : ∀ d, r = .ok d → d.length = n) : AgreeOutside s.buf (s.deliver a n r).buf a n := fun _ hb =>
  (read_deliver_of_outside hr hb).symm

/-- The window holds the codec's sequence. -/
theorem deliver_holds {s : State} (hwf : Memory.wf s.buf = true) (a n : Nat) (d : List Byte) :
    Holds (s.deliver a n (.ok d)).buf a d :=
  Memory.readBytes_writeBytes hwf a d

/-- After a failure every byte of the window is a draw of its own (R10). -/
theorem deliver_freeRange {s : State} (hwf : Memory.wf s.buf = true) (a n : Nat) (x : Failure) :
    FreeRange s (s.deliver a n (.error x)) a n := by
  intro k hk
  have hk' : k < (freeBytes s.draws n).length := by rwa [freeBytes_length]
  refine ⟨s.draws + k, Nat.le_add_right _ _, Nat.add_lt_add_left hk _, ?_⟩
  exact (Memory.read_writeBytes_inside hwf _ a k hk').trans (freeBytes_getElem _ _ _ hk')

/-- The ranges of ADDR_W and BUF_SIZE (R6). -/
theorem Config.sizes {c : Config} (h : c.legal = true) : c.addrW ≤ 31 ∧ c.bufSize ≤ 2 ^ c.addrW := by
  simp only [Config.legal, Bool.and_eq_true, decide_eq_true_eq] at h
  obtain ⟨⟨⟨⟨⟨-, haddrW⟩, -, hbuf⟩, -⟩, -⟩, -⟩ := h
  exact ⟨haddrW, hbuf⟩

/-- OUTLEN holds the length of a window inside BUF (R34). -/
theorem deliver_outLen {s : State} (hlegal : s.cfg.legal = true) {a n : Nat} (hn : a + n ≤ s.cfg.bufSize)
    (d : List Byte) : (s.deliver a n (.ok d)).outLen.toNat = n := by
  obtain ⟨haddrW, hbuf⟩ := Config.sizes hlegal
  have hpow : 2 ^ s.cfg.addrW < 2 ^ (s.cfg.addrW + 1) := Nat.pow_lt_pow_succ (by decide)
  have hfits : s.cfg.addrW + 1 ≤ 32 := Nat.succ_le_succ haddrW
  exact (keepBits_toNat n hfits).trans (Nat.mod_eq_of_lt (by omega))

/-- ERRPOS holds the position of a failure inside the input window (R35). -/
theorem deliver_errPos {s : State} (hlegal : s.cfg.legal = true) {x : Failure} (hx : x.pos < 2 ^ s.cfg.addrW)
    (a n : Nat) : (s.deliver a n (.error x)).errPos.toNat = x.pos := by
  obtain ⟨haddrW, -⟩ := Config.sizes hlegal
  have hfits : s.cfg.addrW ≤ 32 := haddrW.trans (by decide)
  exact (keepBits_toNat x.pos hfits).trans (Nat.mod_eq_of_lt hx)

/-! ### The command COBS_ENC -/

/-- The checks of COBS_ENC in order: BOUNDS for its two windows, then OVERLAP (R145). Its output window is never
empty. -/
theorem checks_cobsEnc (s : State) :
    checks .cobsEnc s =
      if s.cfg.bufSize < s.srcN + s.lenN ∨ s.cfg.bufSize < s.dstN + s.lenN + 2 then some .bounds
      else if 0 < s.lenN ∧ s.srcN < s.dstN + s.lenN + 2 ∧ s.dstN < s.srcN + s.lenN then some .overlap
      else none := by
  rw [checks_of_windows (i := .cobsEnc) rfl rfl rfl]
  simp only [Window.meets_iff, Nat.zero_lt_succ, true_and]
  rfl

/-- The position of a failure to encode the input window fits ERRPOS (R35, R142). -/
theorem State.Inv.encode_pos_lt {s : State} (h : s.Inv) {x : Failure}
    (hx : cobsEncode (s.memRead s.srcN s.lenN) = .error x) : x.pos < 2 ^ s.cfg.addrW := by
  obtain ⟨a, hpos, ⟨hlen, -⟩, -⟩ := firstLongRun_of_cobsEncode hx
  rw [State.memRead, Memory.readBytes_length] at hlen
  calc x.pos < s.lenN := by omega
    _ < 2 ^ s.cfg.addrW := h.lLenFits

/-- Settles O27: the two checks by `checks_cobsEnc`, then the encoder's answer, delivered in either case. -/
theorem cobsEncCompletes : Obligations.CobsEncCompletes := by
  intro s h ⟨hbusy, _⟩
  refine ⟨_, exec_eq_checked .cobsEnc s, ?_⟩
  by_cases hbounds : s.cfg.bufSize < s.lSrc.toNat + s.lLen.toNat ∨ s.cfg.bufSize < s.lDst.toNat + s.lLen.toNat + 2
  · have hchecks := (checks_cobsEnc s).trans (if_pos hbounds)
    rw [if_pos hbounds, checked_of_checks_some hchecks]
    exact raise_endedByCheck s .bounds
  by_cases hoverlap : 0 < s.lLen.toNat ∧ s.lSrc.toNat < s.lDst.toNat + s.lLen.toNat + 2 ∧
      s.lDst.toNat < s.lSrc.toNat + s.lLen.toNat
  · have hchecks := (checks_cobsEnc s).trans ((if_neg hbounds).trans (if_pos hoverlap))
    rw [if_neg hbounds, if_pos hoverlap, checked_of_checks_some hchecks]
    exact raise_endedByCheck s .overlap
  have hchecks := (checks_cobsEnc s).trans ((if_neg hbounds).trans (if_neg hoverlap))
  obtain ⟨-, hinside⟩ := windows_inside_of_checks hchecks
  obtain ⟨hresult, houtLen, herrPos⟩ := h.busyClear hbusy
  have hbody : afterChecks .cobsEnc s = s.deliver s.lDst.toNat (s.lLen.toNat + 2)
      (cobsEncode (Memory.readBytes s.buf s.lSrc.toNat s.lLen.toNat)) := rfl
  rw [if_neg hbounds, if_neg hoverlap, checked_of_checks_none hchecks, hbody]
  refine ⟨(deliver_result s _ _ _).trans hresult, deliver_agreeOutside fun _ => length_of_encode_memRead, ?_⟩
  cases he : cobsEncode (Memory.readBytes s.buf s.lSrc.toNat s.lLen.toNat) with
  | ok r =>
    exact ⟨rfl, deliver_outLen h.cfgLegal (hinside _ rfl) r, herrPos, length_of_encode_memRead he,
      deliver_holds h.bufWf _ _ r⟩
  | error x =>
    have hcode := cobsEncode_error he
    exact ⟨hcode, congrArg Status.raised hcode, deliver_errPos h.cfgLegal (h.encode_pos_lt he) _ _, houtLen,
      deliver_freeRange h.bufWf _ _ x⟩

end Sys2Proof.Machine
end

section
/-! PROOF. The decoder of R160: that it and the encoder undo each other, what a failure says of the byte at its
position, and the command COBS_DEC. -/

namespace Sys2Proof.Machine

/-! ### The inverse of the encoder -/

/-- Settles O44: the delimiter and the first code byte stand for nothing. -/
theorem decodeLength : Obligations.DecodeLength := fun _ _ hd => (cobsDecode_length hd).symm

/-- The decoder's loop gives back what the scan read, run by run; the zero in front is that of the block before. -/
theorem cobsBlocks_of_cobsScan {i p : Nat} {d out : List Byte} (hout : cobsScan i [] d = .ok out) :
    cobsBlocks p 0 out = .ok (0x00 :: d) := by
  induction d using runs_induction generalizing i out with
  | last run h =>
    rw [cobsScan_last h] at hout
    cases hout
    exact cobsBlocks_lastBlock h.length_le h.ne_zero
  | more run d h ih =>
    obtain ⟨rest, hrest, rfl⟩ := (cobsScan_more_eq_ok_iff h).mp hout
    exact cobsBlocks_block h.length_le h.ne_zero (ih hrest)
  | overlong run b d h hlen hb =>
    rw [cobsScan_overlong h d hlen hb] at hout
    cases hout

/-- Decoding inverts encoding (R164). -/
theorem cobsDecode_of_cobsEncode {d e : List Byte} (he : cobsEncode d = .ok e) : cobsDecode e = .ok d := by
  obtain ⟨out, hout, rfl⟩ := cobsEncode_eq_ok_iff.mp he
  exact cobsDecode_eq_ok_iff.mpr ⟨out, rfl, cobsBlocks_of_cobsScan hout⟩

/-- A sequence without a long run has an encoding (R142). -/
theorem cobsEncode_ok_of_not_longRunAt {d : List Byte} (h : ∀ a, ¬LongRunAt d a) : ∃ e, cobsEncode d = .ok e := by
  cases he : cobsEncode d with
  | ok e => exact ⟨e, rfl⟩
  | error x =>
    obtain ⟨a, -, hlong, -⟩ := firstLongRun_of_cobsEncode he
    exact absurd hlong (h a)

/-- The scan appends every sequence of blocks, for the runs that are its blocks' literals. -/
theorem exists_cobsScan_of_blockSeq {b : List Byte} (h : BlockSeq b) (i : Nat) : ∃ d, cobsScan i [] d = .ok b := by
  induction h generalizing i with
  | last lits hlen hlits => exact ⟨lits, cobsScan_last ⟨hlen, hlits⟩⟩
  | more lits rest hlen hlits _ ih =>
    obtain ⟨d, hd⟩ := ih (i + lits.length + 1)
    exact ⟨lits ++ 0x00 :: d, (cobsScan_more_eq_ok_iff ⟨hlen, hlits⟩).mpr ⟨rest, hd, rfl⟩⟩

/-- Every sequence of the grammar is an encoding (R75). -/
theorem exists_cobsEncode_of_encoded {e : List Byte} (h : Encoded e) : ∃ d, cobsEncode d = .ok e := by
  obtain ⟨b, hb, rfl⟩ := h
  obtain ⟨d, hd⟩ := exists_cobsScan_of_blockSeq hb 0
  exact ⟨d, cobsEncode_eq_ok_iff.mpr ⟨b, hd, rfl⟩⟩

/-- Settles O48: what the decoder accepts is the encoding of some sequence, and decoding gives that sequence back. -/
theorem cobsInverse : Obligations.CobsInverse := by
  constructor
  · intro d hruns
    obtain ⟨e, he⟩ := cobsEncode_ok_of_not_longRunAt hruns
    exact ⟨e, he, cobsDecode_of_cobsEncode he⟩
  · intro e d hd
    obtain ⟨d', he⟩ := exists_cobsEncode_of_encoded ((decodeAcceptsGrammar e).mp ⟨d, hd⟩)
    obtain rfl : d' = d := Except.ok.inj ((cobsDecode_of_cobsEncode he).symm.trans hd)
    exact he

/-! ### What a failure says -/

/-- What R161 says of a failure after the delimiter: it names a byte of the sequence, and what is wrong with it. -/
def FailsAfterDelimiter (e : List Byte) (x : Failure) : Prop :=
  x.pos < e.length ∧ 1 ≤ x.pos ∧
    ((x.code = .zeroCode ∧ e.getD x.pos 1 = 0) ∨
      (x.code = .overrun ∧ e.length < x.pos + (e.getD x.pos 0).toNat) ∨
      (x.code = .interiorZero ∧ 2 ≤ x.pos ∧ e.getD x.pos 1 = 0))

/-- The checks of R160 at the code byte after `pre` fail with ZERO_CODE or OVERRUN there. -/
theorem codeCheck_fails {pre e : List Byte} {C : Byte} {x : Failure} (hpre : 1 ≤ pre.length)
    (h : codeCheck pre.length C e.length = some x) : FailsAfterDelimiter (pre ++ C :: e) x := by
  have hinside : pre.length < (pre ++ C :: e).length := by simp
  have hbyte (v : Byte) : (pre ++ C :: e).getD pre.length v = C := by simp
  unfold codeCheck at h
  split at h
  · next hzero =>
    cases h
    exact ⟨hinside, hpre, .inl ⟨rfl, (hbyte 1).trans hzero⟩⟩
  · split at h <;> cases h
    refine ⟨hinside, hpre, .inr (.inl ⟨rfl, ?_⟩)⟩
    show (pre ++ C :: e).length < pre.length + _
    rw [hbyte, List.length_append, List.length_cons]
    omega

/-- At a code byte the loop fails in its checks or after it (R160). -/
theorem cobsBlocks_code_error_cases {p : Nat} {C : Byte} {e : List Byte} {x : Failure}
    (h : cobsBlocks p 0 (C :: e) = .error x) :
    codeCheck p C e.length = some x ∨ cobsBlocks (p + 1) (C.toNat - 1) e = .error x := by
  unfold cobsBlocks at h
  split at h
  · next hcheck =>
    cases h
    exact .inl hcheck
  · split at h
    · cases h
    · next hloop =>
      cases h
      exact .inr hloop

/-- At a literal the loop fails for a 0x00 or after it (R160). -/
theorem cobsBlocks_literal_error_cases {p k : Nat} {b : Byte} {e : List Byte} {x : Failure}
    (h : cobsBlocks p (k + 1) (b :: e) = .error x) :
    (b = 0 ∧ x = { code := .interiorZero, pos := p }) ∨ cobsBlocks (p + 1) k e = .error x := by
  unfold cobsBlocks at h
  split at h
  · next hzero =>
    cases h
    exact .inl ⟨hzero, rfl⟩
  · split at h
    · cases h
    · next hloop =>
      cases h
      exact .inr hloop

/-- The loop of R160, once it has read `pre`, fails at a code byte or at a literal 0x00. -/
theorem cobsBlocks_fails {pre e : List Byte} {k : Nat} {x : Failure} (hpre : 2 ≤ pre.length)
    (h : cobsBlocks pre.length k e = .error x) : FailsAfterDelimiter (pre ++ e) x := by
  induction e generalizing pre k with
  | nil => cases k <;> cases h
  | cons b e ih =>
    have hrest {k' : Nat} (h' : cobsBlocks (pre.length + 1) k' e = .error x) :
        FailsAfterDelimiter (pre ++ b :: e) x := by
      have hread : (pre ++ [b]).length = pre.length + 1 := by simp
      rw [List.append_cons]
      exact ih (hread ▸ Nat.le_succ_of_le hpre) (hread ▸ h')
    cases k with
    | zero =>
      obtain hcode | hloop := cobsBlocks_code_error_cases h
      · exact codeCheck_fails (Nat.le_of_succ_le hpre) hcode
      · exact hrest hloop
    | succ k =>
      obtain ⟨rfl, rfl⟩ | hloop := cobsBlocks_literal_error_cases h
      · exact ⟨by simp, Nat.le_of_succ_le hpre, .inr (.inr ⟨rfl, hpre, by simp⟩)⟩
      · exact hrest hloop

/-- The decoder fails at the delimiter, in the checks of the first code byte or in its loop (R160). -/
theorem cobsDecode_error_cases {c C : Byte} {e : List Byte} {x : Failure} (h : cobsDecode (c :: C :: e) = .error x) :
    (c ≠ 0 ∧ x = { code := .noDelimiter, pos := 0 }) ∨ (c = 0 ∧ FailsAfterDelimiter (c :: C :: e) x) := by
  rw [cobsDecode] at h
  split at h
  · next hc =>
    cases h
    exact .inl ⟨hc, rfl⟩
  · next hc =>
    refine .inr ⟨not_not.mp hc, ?_⟩
    split at h
    · next hcheck =>
      cases h
      exact codeCheck_fails (pre := [c]) le_rfl hcheck
    · exact cobsBlocks_fails (pre := [c, C]) le_rfl h

/-- Settles O47: the failure is the delimiter's, or it is one after the delimiter. -/
theorem decodeFailurePositions : Obligations.DecodeFailurePositions := by
  intro e x hlen hx
  match e with
  | c :: C :: e =>
    obtain ⟨hc, rfl⟩ | ⟨rfl, hinside, hpos, hbyte⟩ := cobsDecode_error_cases hx
    · exact ⟨Nat.succ_pos _, .inl ⟨rfl, rfl, hc⟩⟩
    · exact ⟨hinside, .inr ⟨rfl, hpos, hbyte⟩⟩

/-! ### The command COBS_DEC -/

/-- The checks of COBS_DEC in order: BAD_LENGTH, BOUNDS for its two windows, then OVERLAP (R165). Two bytes decode to
an empty output window, which meets nothing. -/
theorem checks_cobsDec (s : State) :
    checks .cobsDec s =
      if s.lenN < 2 then some .badLength
      else if s.cfg.bufSize < s.srcN + s.lenN ∨ s.cfg.bufSize < s.dstN + (s.lenN - 2) then some .bounds
      else if 2 < s.lenN ∧ s.srcN < s.dstN + (s.lenN - 2) ∧ s.dstN < s.srcN + s.lenN then some .overlap
      else none := by
  by_cases hshort : s.lenN < 2
  · have hlen : checkLen .cobsDec s = some .badLength := if_pos hshort
    rw [if_pos hshort, checks, hlen]
  · rw [if_neg hshort, checks_of_windows (i := .cobsDec) (if_neg hshort) rfl rfl]
    have hmeets : Window.meets { base := s.srcN, len := s.lenN } { base := s.dstN, len := s.lenN - 2 } = true ↔
        2 < s.lenN ∧ s.srcN < s.dstN + (s.lenN - 2) ∧ s.dstN < s.srcN + s.lenN := by
      simp only [Window.meets_iff, Window.top]
      omega
    simp only [hmeets]
    rfl

/-- A decode failure has one of the codes 6 to 9 (R200). -/
theorem decode_error_code {e : List Byte} {x : Failure} (hlen : 2 ≤ e.length) (hx : cobsDecode e = .error x) :
    6 ≤ x.code.code.toNat ∧ x.code.code.toNat ≤ 9 := by
  obtain ⟨-, ⟨hcode, -⟩ | ⟨-, -, ⟨hcode, -⟩ | ⟨hcode, -⟩ | ⟨hcode, -⟩⟩⟩ := decodeFailurePositions e x hlen hx <;>
    simp [hcode, ErrCode.code]

/-- The position of a failure to decode the input window fits ERRPOS (R35, R161). -/
theorem State.Inv.decode_pos_lt {s : State} (h : s.Inv) (hlen : 2 ≤ s.lenN) {x : Failure}
    (hx : cobsDecode (s.memRead s.srcN s.lenN) = .error x) : x.pos < 2 ^ s.cfg.addrW := by
  have hread : (s.memRead s.srcN s.lenN).length = s.lenN := Memory.readBytes_length _ _ _
  obtain ⟨hinside, -⟩ := decodeFailurePositions _ x (hread.symm ▸ hlen) hx
  exact (hread ▸ hinside).trans h.lLenFits

/-- Settles O28: the three checks by `checks_cobsDec`, then the decoder's answer, delivered in either case. -/
theorem cobsDecCompletes : Obligations.CobsDecCompletes := by
  intro s h ⟨hbusy, _⟩
  refine ⟨_, exec_eq_checked .cobsDec s, ?_⟩
  by_cases hshort : s.lLen.toNat < 2
  · have hchecks := (checks_cobsDec s).trans (if_pos hshort)
    rw [if_pos hshort, checked_of_checks_some hchecks]
    exact raise_endedByCheck s .badLength
  rw [if_neg hshort]
  by_cases hbounds : s.cfg.bufSize < s.lSrc.toNat + s.lLen.toNat ∨ s.cfg.bufSize < s.lDst.toNat + (s.lLen.toNat - 2)
  · have hchecks := (checks_cobsDec s).trans ((if_neg hshort).trans (if_pos hbounds))
    rw [if_pos hbounds, checked_of_checks_some hchecks]
    exact raise_endedByCheck s .bounds
  rw [if_neg hbounds]
  by_cases hoverlap : 2 < s.lLen.toNat ∧ s.lSrc.toNat < s.lDst.toNat + (s.lLen.toNat - 2) ∧
      s.lDst.toNat < s.lSrc.toNat + s.lLen.toNat
  · have hchecks := (checks_cobsDec s).trans ((if_neg hshort).trans ((if_neg hbounds).trans (if_pos hoverlap)))
    rw [if_pos hoverlap, checked_of_checks_some hchecks]
    exact raise_endedByCheck s .overlap
  have hchecks := (checks_cobsDec s).trans ((if_neg hshort).trans ((if_neg hbounds).trans (if_neg hoverlap)))
  obtain ⟨-, hinside⟩ := windows_inside_of_checks hchecks
  obtain ⟨hresult, houtLen, herrPos⟩ := h.busyClear hbusy
  have hbody : afterChecks .cobsDec s = s.deliver s.lDst.toNat (s.lLen.toNat - 2)
      (cobsDecode (Memory.readBytes s.buf s.lSrc.toNat s.lLen.toNat)) := rfl
  rw [if_neg hoverlap, checked_of_checks_none hchecks, hbody]
  refine ⟨(deliver_result s _ _ _).trans hresult, deliver_agreeOutside fun _ => length_of_decode_memRead, ?_⟩
  have hlen : 2 ≤ s.lLen.toNat := Nat.le_of_not_lt hshort
  cases hd : cobsDecode (Memory.readBytes s.buf s.lSrc.toNat s.lLen.toNat) with
  | ok r =>
    exact ⟨rfl, deliver_outLen h.cfgLegal (hinside _ rfl) r, herrPos, length_of_decode_memRead hd,
      deliver_holds h.bufWf _ _ r⟩
  | error x =>
    obtain ⟨hlow, hhigh⟩ := decode_error_code (by rwa [Memory.readBytes_length]) hd
    exact ⟨hlow, hhigh, rfl, deliver_errPos h.cfgLegal (h.decode_pos_lt hlen hd) _ _, houtLen,
      deliver_freeRange h.bufWf _ _ x⟩

end Sys2Proof.Machine
end

section
/-! PROOF. The packet framer: what a packet is, the commands PACKETIZE and DEPACKETIZE, and their round trip. -/

namespace Sys2Proof.Machine

/-! ### The packet of a message -/

theorem framed_length (P : CrcParams) (m : List Byte) : (framed P m).length = m.length - 1 + 1 := by
  simp [framed]

/-- The only 0x00 of an encoding is its delimiter (R144). -/
theorem count_zero_of_cobsEncode {d e : List Byte} (he : cobsEncode d = .ok e) : e.count 0 = 1 := by
  obtain ⟨out, hout, rfl⟩ := cobsEncode_eq_ok_iff.mp he
  have hzero : out.count 0 = 0 :=
    List.count_eq_zero.mpr fun hmem => (blockSeq_of_cobsScan hout).ne_zero 0 hmem rfl
  rw [List.count_cons_self, hzero]

/-- Settles O52: a packet is an encoding of as many bytes as the message has. -/
theorem packetShape : Obligations.PacketShape := by
  intro P h b
  have hpacket : packet P (h ++ [b]) = cobsEncode (h ++ [crc8 P h]) := by
    rw [packet, framed, checksum, List.dropLast_concat]
  refine ⟨hpacket, fun e he => ?_⟩
  rw [hpacket] at he
  obtain ⟨hdelim, -⟩ := encodeZeroFree _ e he
  exact ⟨by simpa using cobsEncode_length he, hdelim, count_zero_of_cobsEncode he⟩

/-! ### The checks of the framer's commands -/

/-- The checks of a command that asks for at least one byte and whose windows are then not empty: BAD_LENGTH, BOUNDS,
OVERLAP (R106 to R108, R111). -/
theorem checks_of_nonempty {i : Instr} {s : State} {v w : Window}
    (hlen : checkLen i s = if s.lenN = 0 then some .badLength else none) (hv : inWindow i s = some v)
    (hw : outWindow i s = some w) (hpos : s.lenN ≠ 0 → 0 < v.len ∧ 0 < w.len) :
    checks i s =
      if s.lenN = 0 then some .badLength
      else if s.cfg.bufSize < v.top ∨ s.cfg.bufSize < w.top then some .bounds
      else if v.base < w.top ∧ w.base < v.top then some .overlap
      else none := by
  by_cases hempty : s.lenN = 0
  · rw [if_pos hempty] at hlen ⊢
    rw [checks, hlen]
  · obtain ⟨hvpos, hwpos⟩ := hpos hempty
    rw [if_neg hempty] at hlen ⊢
    rw [checks_of_windows hlen hv hw]
    simp only [Window.meets_iff, hvpos, hwpos, true_and]

/-- The checks of PACKETIZE in order (R181). -/
theorem checks_packetize (s : State) :
    checks .packetize s =
      if s.lenN = 0 then some .badLength
      else if s.cfg.bufSize < s.srcN + s.lenN ∨ s.cfg.bufSize < s.dstN + s.lenN + 2 then some .bounds
      else if s.srcN < s.dstN + s.lenN + 2 ∧ s.dstN < s.srcN + s.lenN then some .overlap
      else none :=
  checks_of_nonempty (i := .packetize) rfl rfl rfl fun hne => ⟨Nat.pos_of_ne_zero hne, Nat.succ_pos _⟩

/-- The checks of DEPACKETIZE in order (R182). -/
theorem checks_depacketize (s : State) :
    checks .depacketize s =
      if s.lenN = 0 then some .badLength
      else if s.cfg.bufSize < s.srcN + s.lenN + 2 ∨ s.cfg.bufSize < s.dstN + s.lenN then some .bounds
      else if s.srcN < s.dstN + s.lenN ∧ s.dstN < s.srcN + s.lenN + 2 then some .overlap
      else none :=
  checks_of_nonempty (i := .depacketize) rfl rfl rfl fun hne => ⟨Nat.succ_pos _, Nat.pos_of_ne_zero hne⟩

/-- A command that passed its checks has its own effect (R111). -/
theorem exec_of_checks_none {i : Instr} {s : State} (h : checks i s = none) :
    exec i s = .next (afterChecks i s) := by
  rw [exec_eq_checked, checked_of_checks_none h]

/-- A command with all three checks ends by the first that fails, or as its own effect leaves the state (R111). -/
theorem exec_by_checks {i : Instr} {s : State} {short past meets : Prop} [Decidable short] [Decidable past]
    [Decidable meets] {ends : State → Prop}
    (hchecks : checks i s =
      if short then some .badLength else if past then some .bounds else if meets then some .overlap else none)
    (hends : ¬ short → ¬ meets → checks i s = none → ends (afterChecks i s)) :
    ∃ t, exec i s = .next t ∧
      if short then EndedByCheck s t 2
      else if past then EndedByCheck s t 3
      else if meets then EndedByCheck s t 4
      else ends t := by
  refine ⟨_, exec_eq_checked i s, ?_⟩
  have hfail (e : ErrCode) (he : checks i s = some e) :
      EndedByCheck s (s.checked i (afterChecks i)) e.code := by
    rw [checked_of_checks_some he]
    exact raise_endedByCheck s e
  by_cases hshort : short
  · rw [if_pos hshort] at hchecks ⊢
    exact hfail .badLength hchecks
  rw [if_neg hshort] at hchecks ⊢
  by_cases hpast : past
  · rw [if_pos hpast] at hchecks ⊢
    exact hfail .bounds hchecks
  rw [if_neg hpast] at hchecks ⊢
  by_cases hmeets : meets
  · rw [if_pos hmeets] at hchecks ⊢
    exact hfail .overlap hchecks
  rw [if_neg hmeets] at hchecks ⊢
  rw [checked_of_checks_none hchecks]
  exact hends hshort hmeets hchecks

/-! ### The command PACKETIZE -/

/-- What PACKETIZE has done once its checksum c is in the slot and in RESULT, before it encodes (R181). -/
def State.placeChecksum (s : State) (c : Byte) : State := (s.memWrite (s.srcN + s.lenN - 1) [c]).setResult c

/-- After its checks PACKETIZE places the checksum of the message's head and delivers the encoding of both (R181). -/
theorem afterChecks_packetize (s : State) {h : List Byte} {c : Byte} (hh : h = s.memRead s.srcN (s.lenN - 1))
    (hc : c = crc8 s.cfg.crc h) :
    afterChecks .packetize s = (s.placeChecksum c).deliver s.dstN (s.lenN + 2) (cobsEncode (h ++ [c])) := by
  subst hc hh
  rfl

theorem wf_placeChecksum {s : State} (hwf : Memory.wf s.buf = true) (c : Byte) :
    Memory.wf (s.placeChecksum c).buf = true := Memory.wf_writeBytes _ _ hwf

/-- The slot holds the checksum, and no other byte has changed. -/
theorem read_placeChecksum {s : State} (hwf : Memory.wf s.buf = true) (c : Byte) (a : Nat) :
    Memory.read (s.placeChecksum c).buf a = if a = s.srcN + s.lenN - 1 then c else Memory.read s.buf a :=
  Memory.read_write hwf _ _ _

/-- A failure to encode names a byte of the sequence (R142). -/
theorem encode_pos_lt_length {d : List Byte} {x : Failure} (hx : cobsEncode d = .error x) : x.pos < d.length := by
  obtain ⟨a, hpos, ⟨hlen, -⟩, -⟩ := firstLongRun_of_cobsEncode hx
  omega

/-- Settles O29: the three checks by `checks_packetize`, then the checksum placed, which the delivery of the packet
leaves alone because the windows are disjoint. -/
theorem packetizeCompletes : Obligations.PacketizeCompletes := by
  intro s hinv ⟨hbusy, _⟩
  refine exec_by_checks (checks_packetize s) fun (hempty : s.lenN ≠ 0)
    (hmeets : ¬ (s.srcN < s.dstN + s.lenN + 2 ∧ s.dstN < s.srcN + s.lenN)) hchecks => ?_
  obtain ⟨-, hinside⟩ := windows_inside_of_checks hchecks
  obtain ⟨-, houtLen, herrPos⟩ := hinv.busyClear hbusy
  obtain ⟨h, hh⟩ : ∃ h, h = s.memRead s.srcN (s.lenN - 1) := ⟨_, rfl⟩
  obtain ⟨c, hc⟩ : ∃ c, c = crc8 s.cfg.crc h := ⟨_, rfl⟩
  have hlength : (h ++ [c]).length = s.lenN := by
    simp only [hh, State.memRead, List.length_append, Memory.readBytes_length, List.length_singleton]
    omega
  have hpacket (d : List Byte) (hd : cobsEncode (h ++ [c]) = .ok d) : d.length = s.lenN + 2 :=
    hlength ▸ cobsEncode_length hd
  have houtside {a : Nat} (ha : a < s.dstN ∨ s.dstN + (s.lenN + 2) ≤ a) :=
    (read_deliver_of_outside (s := s.placeChecksum c) hpacket ha).trans (read_placeChecksum hinv.bufWf c a)
  have hwf := wf_placeChecksum hinv.bufWf c
  have hslot : s.srcN + s.lenN - 1 < s.dstN ∨ s.dstN + (s.lenN + 2) ≤ s.srcN + s.lenN - 1 := by omega
  rw [afterChecks_packetize s hh hc]
  refine ⟨h, c, hh, hc, deliver_result _ _ _ _, ?_, fun a hne ha => ?_, ?_⟩
  · exact (houtside hslot).trans (if_pos rfl)
  · exact (houtside ha).trans (if_neg hne)
  cases he : cobsEncode (h ++ [c]) with
  | ok r =>
    exact ⟨rfl, deliver_outLen hinv.cfgLegal (hinside _ rfl) r, herrPos, hpacket r he, deliver_holds hwf _ _ r⟩
  | error x =>
    have hcode := cobsEncode_error he
    have hpos : x.pos < 2 ^ s.cfg.addrW := (hlength ▸ encode_pos_lt_length he).trans hinv.lLenFits
    exact ⟨hcode, congrArg Status.raised hcode, deliver_errPos (s := s.placeChecksum c) hinv.cfgLegal hpos _ _,
      houtLen, deliver_freeRange hwf _ _ x⟩

/-! ### The command DEPACKETIZE -/

/-- A packet that does not decode ends DEPACKETIZE as it ends COBS_DEC (R182). -/
theorem afterChecks_depacketize_of_error {s : State} {x : Failure}
    (h : cobsDecode (s.memRead s.srcN (s.lenN + 2)) = .error x) :
    afterChecks .depacketize s = s.deliver s.dstN s.lenN (.error x) := by
  rw [afterChecks, bodyDepacketize, h, State.deliver]

/-- A packet that decodes is judged (R182). -/
theorem afterChecks_depacketize_of_ok {s : State} {r : List Byte}
    (h : cobsDecode (s.memRead s.srcN (s.lenN + 2)) = .ok r) : afterChecks .depacketize s = s.judge r := by
  rw [afterChecks, bodyDepacketize, h]

/-- RESULT is the checksum of all but the last byte, whatever that byte is (R182). -/
theorem judge_result (s : State) (r : List Byte) :
    (s.judge r).result = crc8 s.cfg.crc (r.take (s.lenN - 1)) := by
  simp only [State.judge]
  split <;> rfl

/-- The last byte decides between success and CRC_MISMATCH (R182). -/
theorem judge_ended (s : State) (r : List Byte) :
    if (s.judge r).result = r.getD (s.lenN - 1) 0 then EndedOk (s.judge r) else EndedWith (s.judge r) 10 := by
  rw [judge_result, State.judge]
  split
  · rfl
  · rfl

/-- Neither end of the comparison names a position. -/
theorem judge_errPos {s : State} (h : s.errPos = 0) (r : List Byte) : (s.judge r).errPos = 0 := by
  obtain ⟨c, ht | ht⟩ := judge_cases s r <;> rw [ht]
  · exact h
  · exact keepBits_zero _

/-- OUTLEN holds the length of the message, as after COBS_DEC. -/
theorem judge_outLen (s : State) (r : List Byte) (a : Nat) :
    (s.judge r).outLen = (s.deliver a s.lenN (.ok r)).outLen := by
  obtain ⟨c, ht | ht⟩ := judge_cases s r <;> rw [ht] <;> rfl

theorem judge_holds {s : State} (hwf : Memory.wf s.buf = true) (r : List Byte) : Holds (s.judge r).buf s.dstN r := by
  rw [judge_buf]
  exact Memory.readBytes_writeBytes hwf _ r

/-- A position in a packet that passed its checks fits ERRPOS, since the packet lies inside BUF (R35, R107). -/
theorem State.Inv.packet_length_le {s : State} (h : s.Inv) (hchecks : checks .depacketize s = none) :
    s.lenN + 2 ≤ 2 ^ s.cfg.addrW := by
  obtain ⟨hin, -⟩ := windows_inside_of_checks hchecks
  obtain ⟨-, hbuf⟩ := Config.sizes h.cfgLegal
  have htop : s.srcN + (s.lenN + 2) ≤ s.cfg.bufSize := hin _ rfl
  omega

/-- Settles O30: the three checks by `checks_depacketize`, then the decoder's answer: delivered if it is a failure,
judged if it is a message. -/
theorem depacketizeCompletes : Obligations.DepacketizeCompletes := by
  intro s hinv ⟨hbusy, _⟩
  refine exec_by_checks (checks_depacketize s) fun _ _ hchecks => ?_
  obtain ⟨-, hout⟩ := windows_inside_of_checks hchecks
  obtain ⟨hresult, houtLen, herrPos⟩ := hinv.busyClear hbusy
  refine ⟨fun a ha => (read_afterChecks_of_unwritten hchecks ⟨?_, nofun⟩).symm, ?_⟩
  · rintro v ⟨⟩
    exact Window.has_eq_false_iff.mpr ha
  cases hd : cobsDecode (Memory.readBytes s.buf s.lSrc.toNat (s.lLen.toNat + 2)) with
  | ok r =>
    rw [afterChecks_depacketize_of_ok hd]
    refine ⟨length_of_decode_memRead hd, judge_holds hinv.bufWf r, ?_, judge_result s r, judge_errPos herrPos r,
      judge_ended s r⟩
    rw [judge_outLen s r s.dstN]
    exact deliver_outLen hinv.cfgLegal (hout _ rfl) r
  | error x =>
    have hlen : 2 ≤ (s.memRead s.srcN (s.lenN + 2)).length := by simp [State.memRead]
    obtain ⟨hlow, hhigh⟩ := decode_error_code hlen hd
    obtain ⟨hinside, -⟩ := decodeFailurePositions _ x hlen hd
    rw [State.memRead, Memory.readBytes_length] at hinside
    have hpos := hinside.trans_le (hinv.packet_length_le hchecks)
    rw [afterChecks_depacketize_of_error hd]
    exact ⟨hlow, hhigh, rfl, deliver_errPos hinv.cfgLegal hpos _ _, houtLen, hresult,
      deliver_freeRange hinv.bufWf _ _ x⟩

/-! ### The round trip -/

/-- All but the last byte of a range are the range one byte shorter. -/
theorem Memory.readBytes_dropLast (m : List Host.Cell) (a n : Nat) :
    (Memory.readBytes m a n).dropLast = Memory.readBytes m a (n - 1) := by
  refine List.ext_getElem (by simp) fun k _ _ => ?_
  rw [List.getElem_dropLast, Memory.readBytes_getElem, Memory.readBytes_getElem]

/-- The end of DEPACKETIZE for a message given as its head and its last byte (R182). -/
theorem judge_concat {s : State} {h : List Byte} {b : Byte} (hlen : h.length + 1 = s.lenN) :
    (s.judge (h ++ [b])).result = crc8 s.cfg.crc h ∧
      if crc8 s.cfg.crc h = b then EndedOk (s.judge (h ++ [b])) else EndedWith (s.judge (h ++ [b])) 10 := by
  have hhead : s.lenN - 1 = h.length := by omega
  have hresult : (s.judge (h ++ [b])).result = crc8 s.cfg.crc h := by
    rw [judge_result, hhead, List.take_left]
  have hended := judge_ended s (h ++ [b])
  rw [hresult, hhead, List.getD_append_right _ _ _ _ le_rfl, Nat.sub_self, List.getD_cons_zero] at hended
  exact ⟨hresult, hended⟩

/-- PACKETIZE of a message that has a packet leaves it in its output window (R181). -/
theorem exec_packetize_of_packet {s : State} {e : List Byte} (hchecks : checks .packetize s = none)
    (he : packet s.cfg.crc (s.memRead s.srcN s.lenN) = .ok e) :
    exec .packetize s =
      .next ((s.placeChecksum (checksum s.cfg.crc (s.memRead s.srcN s.lenN))).deliver s.dstN (s.lenN + 2) (.ok e)) := by
  rw [exec_of_checks_none hchecks, afterChecks_packetize s (Memory.readBytes_dropLast _ _ _) rfl, ← he]
  rfl

/-- Settles O53: DEPACKETIZE reads the packet that PACKETIZE left, decoding inverts encoding, and the last byte of the
framed message is the checksum of its head. -/
theorem packetRoundTrip : Obligations.PacketRoundTrip := by
  rintro s m hinv - hm hchecks
  obtain rfl : m = s.memRead s.srcN s.lenN := hm
  have hlength : (s.memRead s.srcN s.lenN).length = s.lenN := Memory.readBytes_length _ _ _
  have hpos := lenN_pos_of_checks_packetize hchecks
  have hframed := framed_length s.cfg.crc (s.memRead s.srcN s.lenN)
  refine ⟨fun hshort a hlong => ?_, fun hruns => ?_⟩
  · have ⟨hlen, _⟩ := hlong
    omega
  obtain ⟨e, he⟩ := cobsEncode_ok_of_not_longRunAt hruns
  have hlen : e.length = s.lenN + 2 := by
    rw [cobsEncode_length he]
    omega
  refine ⟨_, exec_packetize_of_packet hchecks he, rfl, ?_⟩
  rintro u huinv - hcfg hbuf hsrc hlenU hchecksU
  have hread : u.memRead u.srcN (u.lenN + 2) = e := by
    have hholds : Holds u.buf s.dstN e := hbuf ▸ deliver_holds (wf_placeChecksum hinv.bufWf _) _ _ e
    rw [Holds, hlen] at hholds
    rwa [State.memRead, State.srcN, State.lenN, hsrc, hlenU]
  have hdecode : cobsDecode (u.memRead u.srcN (u.lenN + 2)) = .ok (framed s.cfg.crc (s.memRead s.srcN s.lenN)) :=
    (congrArg cobsDecode hread).trans (cobsDecode_of_cobsEncode he)
  have hhead : (s.memRead s.srcN s.lenN).dropLast.length + 1 = u.lenN := by
    rw [List.length_dropLast, hlength, Nat.sub_add_cancel hpos, State.lenN, State.lenN, hlenU]
  obtain ⟨hresult, hended⟩ := judge_concat (b := checksum s.cfg.crc (s.memRead s.srcN s.lenN)) hhead
  rw [hcfg] at hresult hended
  replace hended := (if_pos rfl).mp hended
  rw [exec_of_checks_none hchecksU, afterChecks_depacketize_of_ok hdecode]
  exact ⟨_, rfl, congrArg Status.err hended, judge_holds huinv.bufWf _, hresult⟩

end Sys2Proof.Machine
end

section
/-! PROOF. One changed byte of a packet: what the decoder and the checksum make of it, and how DEPACKETIZE then ends. -/

namespace Sys2Proof.Machine

/-! ### A changed byte of BUF -/

/-- A byte written into a range changes it in the sequence read. -/
theorem Memory.readBytes_write {m : List Host.Cell} (hm : Memory.wf m = true) (a n q : Nat) (v : Byte) :
    Memory.readBytes (Memory.write m (a + q) v) a n = (Memory.readBytes m a n).set q v := by
  refine List.ext_getElem (by simp) fun k _ _ => ?_
  rw [Memory.readBytes_getElem, List.getElem_set, Memory.readBytes_getElem, Memory.read_write hm]
  simp only [Nat.add_left_cancel_iff, eq_comm]

/-! ### A changed byte before the decoder -/

/-- The loop at a code byte that passes its checks (R160). -/
theorem cobsBlocks_code {p : Nat} {C : Byte} {e : List Byte} (hC : C ≠ 0) (hleft : C.toNat - 1 ≤ e.length) :
    cobsBlocks p 0 (C :: e) = (cobsBlocks (p + 1) (C.toNat - 1) e).map (0x00 :: ·) := by
  rw [cobsBlocks, codeCheck_eq_none_iff.mpr ⟨hC, hleft⟩]
  cases cobsBlocks (p + 1) (C.toNat - 1) e <;> rfl

/-- The loop at a literal other than 0x00 (R160). -/
theorem cobsBlocks_literal {p k : Nat} {b : Byte} {e : List Byte} (hb : b ≠ 0) :
    cobsBlocks p (k + 1) (b :: e) = (cobsBlocks (p + 1) k e).map (b :: ·) := by
  rw [cobsBlocks, if_neg hb]
  cases cobsBlocks (p + 1) k e <;> rfl

/-- What becomes of an answer `out` when the literal at index q of what the loop reads from index p on is changed to v:
a 0x00 is the failure INTERIOR_ZERO there, and any other byte stands in the answer (R160, R161). -/
def withLiteral (p q : Nat) (v : Byte) (out : List Byte) : Except Failure (List Byte) :=
  if v = 0 then .error { code := .interiorZero, pos := p + q } else .ok (out.set q v)

theorem withLiteral_succ (p q : Nat) (v b : Byte) (out : List Byte) :
    (withLiteral (p + 1) q v out).map (b :: ·) = withLiteral p (q + 1) v (b :: out) := by
  unfold withLiteral
  split
  · rw [Nat.add_assoc, Nat.add_comm 1 q]
    rfl
  · rfl

/-- A changed literal leaves the blocks as they are. -/
theorem cobsBlocks_set {p k q : Nat} {e out : List Byte} (h : cobsBlocks p k e = .ok out)
    (hq : literalIn k e q = true) (v : Byte) : cobsBlocks p k (e.set q v) = withLiteral p q v out := by
  induction e generalizing p k q out with
  | nil => simp [literalIn] at hq
  | cons b e ih =>
    cases k with
    | zero =>
      obtain ⟨⟨hb, hleft⟩, r, hr, rfl⟩ := cobsBlocks_code_eq_ok_iff.mp h
      cases q with
      | zero => simp [literalIn] at hq
      | succ q =>
        rw [List.set_cons_succ, cobsBlocks_code hb (by rwa [List.length_set]), ih hr hq, withLiteral_succ]
    | succ k =>
      obtain ⟨hb, r, hr, rfl⟩ := cobsBlocks_literal_eq_ok_iff.mp h
      cases q with
      | zero =>
        rw [List.set_cons_zero]
        by_cases hv : v = 0
        · rw [cobsBlocks, if_pos hv, withLiteral, if_pos hv, Nat.add_zero]
        · rw [cobsBlocks_literal hv, hr, withLiteral, if_neg hv]
          rfl
      | succ q => rw [List.set_cons_succ, cobsBlocks_literal hb, ih hr hq, withLiteral_succ]

/-- A literal stands in the answer where it stands in what the loop read. -/
theorem getElem?_of_literalIn {p k q : Nat} {e out : List Byte} (h : cobsBlocks p k e = .ok out)
    (hq : literalIn k e q = true) : out[q]? = e[q]? := by
  induction e generalizing p k q out with
  | nil => simp [literalIn] at hq
  | cons b e ih =>
    cases k with
    | zero =>
      obtain ⟨-, r, hr, rfl⟩ := cobsBlocks_code_eq_ok_iff.mp h
      cases q with
      | zero => simp [literalIn] at hq
      | succ q => simpa using ih hr hq
    | succ k =>
      obtain ⟨-, r, hr, rfl⟩ := cobsBlocks_literal_eq_ok_iff.mp h
      cases q with
      | zero => rfl
      | succ q => simpa using ih hr hq

/-- The decoder is its loop from index 1 on, less the zero in front of the first block. -/
theorem cobsBlocks_eq_map_cobsDecode {b : List Byte} (hb : b ≠ []) :
    cobsBlocks 1 0 b = (cobsDecode (0x00 :: b)).map (0x00 :: ·) := by
  obtain ⟨C, e, rfl⟩ := List.exists_cons_of_ne_nil hb
  rw [cobsBlocks, cobsDecode, if_neg (not_not.mpr rfl)]
  cases codeCheck 1 C e.length with
  | some x => rfl
  | none => cases cobsBlocks 2 (C.toNat - 1) e <;> rfl

/-- Putting a byte in front hides no answer. -/
theorem map_cons_injective (b : Byte) :
    Function.Injective (Except.map (b :: ·) : Except Failure (List Byte) → Except Failure (List Byte)) := by
  rintro (x | r) (x' | r') h <;> cases h <;> rfl

/-- A changed delimiter is no delimiter (R160). -/
theorem cobsDecode_set_delimiter {e : List Byte} {v : Byte} (hlen : 2 ≤ e.length) (hv : v ≠ 0) :
    cobsDecode (e.set 0 v) = .error { code := .noDelimiter, pos := 0 } := by
  match e with
  | c :: C :: e => exact if_pos hv

/-- A literal of a packet stands in its decoding two places earlier, and so does what it is changed to. -/
theorem cobsDecode_set_literal {e r : List Byte} {q : Nat} (h : cobsDecode e = .ok r) (hq : literalAt e q = true)
    (v : Byte) : ∃ j, q = j + 2 ∧ r[j]? = e[q]? ∧ cobsDecode (e.set q v) = withLiteral 2 j v r := by
  obtain ⟨b, rfl, hb⟩ := cobsDecode_eq_ok_iff.mp h
  match b, q with
  | C :: b, j + 2 =>
    have hbyte := getElem?_of_literalIn (q := j + 1) hb hq
    refine ⟨j, rfl, by simpa using hbyte, map_cons_injective 0x00 ?_⟩
    rw [withLiteral_succ, ← cobsBlocks_set hb hq, List.set_cons_succ]
    exact (cobsBlocks_eq_map_cobsDecode (by simp)).symm

/-! ### A changed byte before the checksum -/

/-- One changed byte changes the checksum (R128). -/
theorem crc8_set_ne {P : CrcParams} (hpoly : P.poly.getLsbD 0 = true) (hrefl : P.refin = P.refout) {d : List Byte}
    {k : Nat} {v : Byte} (hk : k < d.length) (hv : v ≠ d[k]) : crc8 P (d.set k v) ≠ crc8 P d := by
  have hdetect := crcSingleByteDetection P hpoly hrefl (d.take k) (d.drop (k + 1)) v d[k] hv
  have hd : d.take k ++ d[k] :: d.drop (k + 1) = d := by rw [← List.drop_eq_getElem_cons, List.take_append_drop]
  rw [hd] at hdetect
  rwa [List.set_eq_take_append_cons_drop, if_pos hk]

/-- One changed byte of a framed message, in its head or its checksum, parts the two (R184). -/
theorem exists_mismatch_of_set {P : CrcParams} (hpoly : P.poly.getLsbD 0 = true) (hrefl : P.refin = P.refout)
    (h : List Byte) {j : Nat} {v w : Byte} (hw : (h ++ [crc8 P h])[j]? = some w) (hv : v ≠ w) :
    ∃ h' b', (h ++ [crc8 P h]).set j v = h' ++ [b'] ∧ h'.length = h.length ∧ crc8 P h' ≠ b' := by
  obtain ⟨hj, rfl⟩ := List.getElem?_eq_some_iff.mp hw
  by_cases hhead : j < h.length
  · rw [List.getElem_append_left hhead] at hv
    exact ⟨h.set j v, crc8 P h, List.set_append_left _ _ hhead, List.length_set, crc8_set_ne hpoly hrefl hhead hv⟩
  · obtain rfl : j = h.length := by
      simp at hj
      omega
    refine ⟨h, v, by simp, rfl, ?_⟩
    simpa using hv.symm

/-! ### How DEPACKETIZE ends -/

theorem lenN_pos_of_checks_depacketize {s : State} (h : checks .depacketize s = none) : 0 < s.lenN := by
  by_contra hz
  simp [checks, checkLen, show s.lenN = 0 by omega] at h

/-- DEPACKETIZE ends without error only for a packet whose decoding ends in the checksum of its head (R182). -/
theorem framed_of_depacketize_ok {s t : State} (ht : exec .depacketize s = .next t) (herr : t.status.err = false) :
    checks .depacketize s = none ∧ ∃ h, h.length + 1 = s.lenN ∧
      cobsDecode (s.memRead s.srcN (s.lenN + 2)) = .ok (h ++ [crc8 s.cfg.crc h]) := by
  obtain ⟨e, -, rfl⟩ | ⟨hchecks, rfl⟩ := exec_cases ht
  · cases herr
  refine ⟨hchecks, ?_⟩
  cases hd : cobsDecode (s.memRead s.srcN (s.lenN + 2)) with
  | error x =>
    rw [afterChecks_depacketize_of_error hd] at herr
    cases herr
  | ok r =>
    have hlen : r.length = s.lenN := length_of_decode_memRead hd
    have hpos := lenN_pos_of_checks_depacketize hchecks
    obtain rfl | ⟨h, b, rfl⟩ := List.eq_nil_or_concat' r
    · simp at hlen
      omega
    have hhead : h.length + 1 = s.lenN := by simpa using hlen
    obtain ⟨-, hended⟩ := judge_concat (b := b) hhead
    rw [afterChecks_depacketize_of_ok hd] at herr
    split at hended
    · next hcrc => exact ⟨h, hhead, by rw [hcrc]⟩
    · rw [hended] at herr
      cases herr

/-- A packet that does not decode ends DEPACKETIZE with the decoder's code. -/
theorem depacketize_ended_of_error {s : State} {x : Failure}
    (h : cobsDecode (s.memRead s.srcN (s.lenN + 2)) = .error x) :
    EndedWith (afterChecks .depacketize s) x.code.code := by
  rw [afterChecks_depacketize_of_error h]
  rfl

/-- A packet whose decoding ends in another byte than the checksum of its head ends DEPACKETIZE with CRC_MISMATCH. -/
theorem depacketize_ended_of_mismatch {s : State} {h : List Byte} {b : Byte}
    (hd : cobsDecode (s.memRead s.srcN (s.lenN + 2)) = .ok (h ++ [b])) (hlen : h.length + 1 = s.lenN)
    (hcrc : crc8 s.cfg.crc h ≠ b) : EndedWith (afterChecks .depacketize s) 10 := by
  obtain ⟨-, hended⟩ := judge_concat (b := b) hlen
  rwa [if_neg hcrc, ← afterChecks_depacketize_of_ok hd] at hended

/-- DPK-15: the first code byte of a packet changed from 0x02 to 0x0C merges its blocks, and the checksum still
matches. -/
theorem undetected_codeByte_change :
    ∃ (m e r : List Byte) (q : Nat) (v : Byte), packet CrcParams.default m = .ok e ∧ 0 < q ∧ q < e.length ∧
      literalAt e q = false ∧ v ≠ e.getD q 0 ∧ cobsDecode (e.set q v) = .ok r ∧
      r ≠ framed CrcParams.default m ∧ r.getD (r.length - 1) 0 = checksum CrcParams.default r :=
  ⟨[0xC0, 0x00, 0xC6, 0x00, 0x0C, 0x2A, 0xE1, 0xEA, 0xF6, 0x00, 0x00],
    [0x00, 0x02, 0xC0, 0x02, 0xC6, 0x06, 0x0C, 0x2A, 0xE1, 0xEA, 0xF6, 0x02, 0xB8],
    [0xC0, 0x02, 0xC6, 0x06, 0x0C, 0x2A, 0xE1, 0xEA, 0xF6, 0x02, 0xB8], 1, 0x0C, by decide +kernel, by decide,
    by decide, rfl, by decide, by decide +kernel, by decide +kernel, by decide +kernel⟩

/-- Settles O54: the change reaches the decoder as one changed byte, which fails it or, for a literal other than 0x00,
parts message and checksum. -/
theorem singleByteCorruption : Obligations.SingleByteCorruption := by
  refine ⟨fun s t s' q v hinv _ hpoly hrefl ht herr hq hv hs' => ?_, undetected_codeByte_change⟩
  obtain ⟨hchecks, h, hlen, hd⟩ := framed_of_depacketize_ok ht herr
  have hchecks' : checks .depacketize s' = none := hs' ▸ hchecks
  have hread : s'.memRead s'.srcN (s'.lenN + 2) = (s.memRead s.srcN (s.lenN + 2)).set q v := by
    subst hs'
    exact Memory.readBytes_write hinv.bufWf _ _ _ _
  have hbyte : (s.memRead s.srcN (s.lenN + 2))[q]? = some (Memory.read s.buf (s.srcN + q)) := by
    have hinside : q < (s.memRead s.srcN (s.lenN + 2)).length := (Memory.readBytes_length _ _ _).symm ▸ hq
    rw [List.getElem?_eq_getElem hinside]
    exact congrArg some (Memory.readBytes_getElem _ _ _ _ hinside)
  refine ⟨_, exec_of_checks_none hchecks', ?_, fun hlit => ?_⟩
  · rintro rfl
    have hdelim : v ≠ 0 := by
      obtain ⟨b, he, -⟩ := cobsDecode_eq_ok_iff.mp hd
      rw [he] at hbyte
      exact Option.some.inj hbyte ▸ hv
    refine depacketize_ended_of_error (x := { code := .noDelimiter, pos := 0 }) ?_
    rw [hread]
    exact cobsDecode_set_delimiter ((Nat.le_add_left _ _).trans_eq (Memory.readBytes_length _ _ _).symm) hdelim
  · obtain ⟨j, rfl, hrj, hset⟩ := cobsDecode_set_literal hd hlit v
    rw [← hread, withLiteral] at hset
    refine ⟨fun hzero => ?_, fun hne => ?_⟩
    · rw [if_pos hzero, Nat.add_comm 2 j] at hset
      refine ⟨depacketize_ended_of_error hset, ?_⟩
      have hfits : j + 2 < 2 ^ s'.cfg.addrW := by
        rw [hs']
        exact Nat.lt_of_lt_of_le hq (hinv.packet_length_le hchecks)
      rw [afterChecks_depacketize_of_error hset]
      exact deliver_errPos (hs' ▸ hinv.cfgLegal) hfits _ _
    · rw [if_neg hne] at hset
      obtain ⟨h', b', hset', hlen', hcrc⟩ := exists_mismatch_of_set hpoly hrefl h (hrj.trans hbyte) hv
      rw [hset'] at hset
      refine depacketize_ended_of_mismatch hset ?_ ?_
      · rw [hlen', hlen, hs']
        rfl
      · rwa [hs']

end Sys2Proof.Machine
end

section
/-! PROOF. The interrupt line, and the idle block: what raises and drops irq, and that nothing moves without a host
access. -/

namespace Sys2Proof.Machine

/-! ### The interrupt line -/

/-- irq is low while DONE is 0 (R205). -/
theorem irq_of_not_done {s : State} (h : s.status.done = false) : s.irq = false := by
  rw [State.irq, h, Bool.false_and]

/-- While DONE is 1, irq follows its enable (R205). -/
theorem irq_of_done {s : State} (h : s.status.done = true) : s.irq = s.irqEn := by
  rw [State.irq, h, Bool.true_and]

/-- irq is low while IRQ_EN is 0, whatever STATUS holds (R205). -/
theorem irq_of_not_irqEn {s : State} (h : s.irqEn = false) : s.irq = false := by
  rw [State.irq, h, Bool.and_false]

/-- A completion leaves IRQ_EN alone: it is not a field of R112. -/
theorem exec_irqEn {i : Instr} {s t : State} (h : exec i s = .next t) : t.irqEn = s.irqEn := by
  obtain ⟨hcompletion, -⟩ := commandFrame
  obtain ⟨hframe, -⟩ := hcompletion i s t h
  rw [hframe]

/-- Every completion of a computing command sets DONE, with or without an error (R109, R110). -/
theorem exec_done {i : Instr} (hi : i ≠ .ack) {s t : State} (h : exec i s = .next t) : t.status.done = true := by
  obtain hok | ⟨e, -, herr⟩ := exec_status hi h
  · rw [hok]
    rfl
  · rw [herr]
    rfl

/-- Settles O15: ACK and an accept clear DONE, the write of CTRL clears IRQ_EN, and a completion sets DONE and leaves
IRQ_EN alone. -/
theorem interruptLine : Obligations.InterruptLine := by
  refine fun s => ⟨Bool.and_eq_true_iff, ?ack, fun w hw hb => ?accept, ?mask, fun i t hi h => ?completion, ?illegal⟩
  case ack =>
    rintro t ⟨⟩
    exact irq_of_not_done rfl
  case accept => exact ⟨s.accept w, (access_issueOp s w).trans (writeCmd_of_idle hb hw), irq_of_not_done rfl⟩
  case mask => exact ⟨{ s with irqEn := false }, access_write_reg s .ctrl 0, irq_of_not_irqEn rfl, rfl⟩
  case completion => exact (irq_of_done (exec_done hi h)).trans (exec_irqEn h)
  case illegal => exact irq_of_done rfl

/-! ### The idle block -/

/-- A host at its program's end makes no access (R100). -/
theorem hostStep_of_nil {s : State} (h : s.prog = []) : s.hostStep = .next s := by
  rw [State.hostStep, h]

/-- Settles O7: by the turn set next; the host has no access to make and the engine no command to complete. -/
theorem idleHoldsState : Obligations.IdleHoldsState := by
  intro s hb hprog hreset
  have hhost : s.popTurn.hostStep = .next s.popTurn := hostStep_of_nil hprog
  have hengine : s.popTurn.engineStep = .next s.popTurn := engineStep_of_idle hb
  cases hturn : s.turns.head? with
  | none => exact (step_of_no_turn_idle (List.head?_eq_none_iff.mp hturn) hb).trans hhost
  | some tn =>
    rw [step_of_turn hturn]
    cases tn with
    | host => exact hhost
    | engine => exact hengine
    | reset => exact absurd hturn hreset

end Sys2Proof.Machine
end

section
/-! PROOF. The block while a command is in flight: what its registers read, which BUF accesses its windows forbid, what
a reset makes of it, that writes of its operand registers pass it by, and that the host's `wait` for it ends. -/

namespace Sys2Proof.Machine

/-! ### The result registers -/

/-- Settles O34: a register read returns the register, and the invariant has the three cleared while BUSY. -/
theorem busyResultsReadZero : Obligations.BusyResultsReadZero := by
  intro s h hb
  obtain ⟨hresult, houtLen, herrPos⟩ := h.busyClear hb
  have hread (r : Reg) (hr : s.readReg r = 0) :
      s.access { kind := .read, addr := s.cfg.regBase + r.offset, width := .w32, data := 0 } = .next (s.see 0) :=
    (access_read_reg s r 0).trans (by rw [hr])
  exact ⟨hread .result (by rw [State.readReg, hresult]; rfl), hread .outLen houtLen, hread .errPos herrPos⟩

/-! ### The window hazard -/

/-- The command in flight has active windows if it does not fail BAD_LENGTH (R235). -/
theorem active_of_inFlight {s : State} {i : Instr} (h : s.InFlight i) (hlen : checkLen i s = none) :
    s.active = some i := by
  obtain ⟨hbusy, hlatched⟩ := h
  simp [State.active, hbusy, hlatched, hlen]

/-- A command that fails BAD_LENGTH has no windows (R235). -/
theorem active_of_badLength {s : State} {i : Instr} (hlatched : s.latched = .ok i) (hlen : checkLen i s ≠ none) :
    s.active = none := by
  simp [State.active, hlatched, hlen]

theorem hazard_of_not_active {s : State} (h : s.active = none) (k : Kind) (v : Window) : s.hazard k v = false := by
  rw [State.hazard, h]

/-- An address in a window is one from its first byte to its last. -/
theorem Window.has_iff {w : Window} {a : Nat} : w.has a = true ↔ w.base ≤ a ∧ a < w.top := by
  rw [Window.has, Bool.and_eq_true, decide_eq_true_eq, decide_eq_true_eq]

/-- Two windows meet exactly if a byte of the first lies in the second. -/
theorem Window.meets_iff_exists_has {v w : Window} :
    v.meets w = true ↔ ∃ k, k < v.len ∧ w.has (v.base + k) = true := by
  simp only [Window.meets_iff, Window.has_iff, Window.top]
  constructor
  · rintro ⟨hv, hw, hvw, hwv⟩
    exact ⟨w.base - v.base, by omega, by omega, by omega⟩
  · rintro ⟨k, hk, hlo, hhi⟩
    omega

/-- An access touches a window if one of its bytes lies in it. -/
theorem touches_iff {v : Window} {w : Option Window} :
    touches v w = true ↔ ∃ u k, k < v.len ∧ u.has (v.base + k) = true ∧ w = some u := by
  cases w with
  | none => simp [touches]
  | some u => simp [touches, Window.meets_iff_exists_has]

/-- R235 for an active command, byte by byte of the access. -/
theorem hazard_iff {s : State} {i : Instr} (h : s.active = some i) {k : Kind} {v : Window} :
    s.hazard k v = true ↔
      ∃ u j, j < v.len ∧ u.has (v.base + j) = true ∧
        ((k = .write ∧ (inWindow i s = some u ∨ outWindow i s = some u)) ∨
          (k = .read ∧ (outWindow i s = some u ∨ slotWindow i s = some u))) := by
  have heither {w w' : Option Window} : (touches v w || touches v w') = true ↔
      ∃ u j, j < v.len ∧ u.has (v.base + j) = true ∧ (w = some u ∨ w' = some u) := by
    simp only [Bool.or_eq_true, touches_iff, ← exists_or, ← and_or_left]
  rw [State.hazard, h]
  cases k with
  | write => simpa using heither
  | read => simpa using heither

/-- A well-formed BUF access faults by the window hazard alone (R54, R235). -/
theorem bufAccess_windowHazard_iff {s : State} {op : BusOp} {a : Nat} (hok : bufAccessOk s.cfg op.width a = true) :
    s.bufAccess op a = .fault (.windowHazard op) ↔ s.hazard op.kind { base := a, len := op.width.bytes } = true := by
  refine ⟨fun hfault => ?_, bufAccess_hazard hok⟩
  by_contra hz
  obtain ⟨t, ht⟩ := bufAccess_next hok (Bool.eq_false_iff.mpr hz)
  simp [ht] at hfault

/-- Settles O21: with active windows the access faults by the bytes it shares with them, and without by none. -/
theorem windowHazardFaults : Obligations.WindowHazardFaults := by
  intro s op a hlegal hbusy haddr hok
  rw [access_of_bufAccessOk hlegal haddr hok]
  refine ⟨fun i hlatched hlen => ⟨?_, fun hfault => ?_⟩, fun i hlatched hlen => ?_, fun x hlatched => ?_⟩
  · exact (bufAccess_windowHazard_iff hok).trans (hazard_iff (active_of_inFlight ⟨hbusy, hlatched⟩ hlen))
  · exact bufAccess_next hok (Bool.eq_false_iff.mpr fun hz => hfault (bufAccess_hazard hok hz))
  · exact bufAccess_next hok (hazard_of_not_active (active_of_badLength hlatched hlen) _ _)
  · exact bufAccess_next hok (hazard_of_not_active (active_of_illegal hlatched) _ _)

/-! ### A reset of the command in flight -/

/-- A drawn range is a free range: a draw is what a failing codec makes of its window. -/
theorem unspecified_freeRange {s : State} (hwf : Memory.wf s.buf = true) (a n : Nat) :
    FreeRange s (s.unspecified a n) a n :=
  deliver_freeRange hwf a n { code := .overrun, pos := 0 }

/-- Drawing another range keeps a free range free: a byte of both is drawn anew (R10). -/
theorem FreeRange.unspecified {s t : State} {a n : Nat} (h : FreeRange s t a n) (hwf : Memory.wf t.buf = true)
    (b m : Nat) : FreeRange s (t.unspecified b m) a n := by
  intro k hk
  obtain ⟨j, hlo, hhi, hread⟩ := h k hk
  by_cases hin : b ≤ a + k ∧ a + k < b + m
  · obtain ⟨l, hl⟩ := Nat.exists_eq_add_of_le hin.1
    obtain ⟨j', hlo', hhi', hread'⟩ := unspecified_freeRange hwf b m l (by omega)
    exact ⟨j', by omega, hhi', hl ▸ hread'⟩
  · have hout : a + k < b ∨ b + (freeBytes t.draws m).length ≤ a + k := by rw [freeBytes_length]; omega
    exact ⟨j, hlo, Nat.lt_add_right m hhi, (Memory.read_writeBytes_outside _ _ hout).trans hread⟩

theorem FreeRange.clobber {s t : State} {a n : Nat} (h : FreeRange s t a n) (hwf : Memory.wf t.buf = true)
    (w : Option Window) : FreeRange s (t.clobber w) a n := by
  cases w with
  | none => exact h
  | some v => exact h.unspecified hwf _ _

/-- A byte drawn since a later state was drawn since an earlier one. -/
theorem FreeRange.since {s s' t : State} {a n : Nat} (h : FreeRange s' t a n) (hle : s.draws ≤ s'.draws) :
    FreeRange s t a n := by
  intro k hk
  obtain ⟨j, hlo, hj⟩ := h k hk
  exact ⟨j, hle.trans hlo, hj⟩

/-- The part of a window that a reset makes unspecified (log entry 10). -/
theorem clobber_freeRange {s : State} {w : Option Window} (hwf : Memory.wf s.buf = true) :
    ∀ v, w = some v → FreeRange s (s.clobber w) v.base (min v.len (s.cfg.bufSize - v.base)) := by
  rintro v rfl
  exact unspecified_freeRange hwf _ _

theorem clobber_cfg (s : State) (w : Option Window) : (s.clobber w).cfg = s.cfg := by cases w <;> rfl

theorem draws_le_clobber (s : State) (w : Option Window) : s.draws ≤ (s.clobber w).draws := by
  cases w with
  | none => exact le_rfl
  | some v => exact Nat.le_add_right _ _

theorem abandon_of_active {s : State} {i : Instr} (h : s.active = some i) :
    s.abandon = (s.clobber (outWindow i s)).clobber (slotWindow i s) := by
  rw [State.abandon, h]

/-- Settles O9: the reset draws the output window and then the slot, which may lie over it. -/
theorem resetAbandonsCommand : Obligations.ResetAbandonsCommand := by
  rintro s t i h hi rfl
  have houtInv := h.clobber (outWindow i s)
  have hfree {a n : Nat} (hrange : FreeRange s s.abandon a n) : FreeRange s s.applyReset a n := hrange
  rw [abandon_of_active hi] at hfree
  refine ⟨rfl, rfl, rfl, fun v hv => hfree ?_, fun v hv => hfree ?_, fun a ha => read_abandon_of_unwritten ?_⟩
  · exact (clobber_freeRange h.bufWf v hv).clobber houtInv.bufWf _
  · rw [← clobber_cfg s (outWindow i s)]
    exact (clobber_freeRange houtInv.bufWf v hv).since (draws_le_clobber s _)
  · rintro j hj
    rwa [Option.some.inj (hj.symm.trans hi)]

/-! ### Writes of the operand registers -/

/-- A state with the registers that R236 lets the host write while BUSY taken from another. -/
def State.withHostRegs (s u : State) : State := { s with irqEn := u.irqEn, src := u.src, dst := u.dst, len := u.len }

theorem deliver_withHostRegs (s u : State) (a n : Nat) (r : Except Failure (List Byte)) :
    (s.withHostRegs u).deliver a n r = (s.deliver a n r).withHostRegs u := by
  cases r <;> rfl

theorem judge_withHostRegs (s u : State) (r : List Byte) :
    (s.withHostRegs u).judge r = (s.judge r).withHostRegs u := by
  simp only [State.judge]
  rw [apply_ite (State.withHostRegs · u)]
  rfl

/-- A command's own effect reads the latched operands and none of the host's registers (R37). -/
theorem afterChecks_withHostRegs (i : Instr) (s u : State) :
    afterChecks i (s.withHostRegs u) = (afterChecks i s).withHostRegs u := by
  cases i with
  | ack | crc8 => rfl
  | cobsEnc | cobsDec => exact deliver_withHostRegs s u _ _ _
  | packetize =>
    rw [afterChecks_packetize s rfl rfl, afterChecks_packetize (s.withHostRegs u) rfl rfl]
    exact deliver_withHostRegs (s.placeChecksum _) u _ _ _
  | depacketize =>
    cases hr : cobsDecode (s.memRead s.srcN (s.lenN + 2)) with
    | error x =>
      rw [afterChecks_depacketize_of_error hr, afterChecks_depacketize_of_error (s := s.withHostRegs u) hr]
      exact deliver_withHostRegs s u _ _ _
    | ok r =>
      rw [afterChecks_depacketize_of_ok hr, afterChecks_depacketize_of_ok (s := s.withHostRegs u) hr]
      exact judge_withHostRegs s u r

theorem exec_withHostRegs {i : Instr} {s t : State} (h : exec i s = .next t) (u : State) :
    exec i (s.withHostRegs u) = .next (t.withHostRegs u) := by
  have hchecks : checks i (s.withHostRegs u) = checks i s := rfl
  rw [exec_eq_checked]
  obtain ⟨e, he, rfl⟩ | ⟨hnone, rfl⟩ := exec_cases h
  · rw [checked_of_checks_some (hchecks.trans he)]
    rfl
  · rw [checked_of_checks_none (hchecks.trans hnone), afterChecks_withHostRegs]

/-- The engine's step depends on none of the registers the host writes while BUSY, and keeps them (R236). -/
theorem engineStep_withHostRegs {s t : State} (h : s.engineStep = .next t) (u : State) :
    (s.withHostRegs u).engineStep = .next (t.withHostRegs u) := by
  obtain ⟨hidle, rfl⟩ | ⟨hbusy, i, hlatched, hexec⟩ | ⟨hbusy, ⟨x, hlatched⟩, rfl⟩ := engineStep_cases h
  · exact engineStep_of_idle (s := t.withHostRegs u) hidle
  · exact (engineStep_of_inFlight (s := s.withHostRegs u) ⟨hbusy, hlatched⟩).trans (exec_withHostRegs hexec u)
  · exact engineStep_of_illegal (s := s.withHostRegs u) hbusy hlatched

/-- The engine's step ends in a state: no command faults (R202). -/
theorem engineStep_next (s : State) : ∃ t, s.engineStep = .next t := by
  cases hbusy : s.status.busy with
  | false => exact ⟨s, engineStep_of_idle hbusy⟩
  | true =>
    cases hlatched : s.latched with
    | ok i => exact ⟨_, (engineStep_of_inFlight ⟨hbusy, hlatched⟩).trans (exec_eq_checked i s)⟩
    | error x => exact ⟨_, engineStep_of_illegal hbusy hlatched⟩

/-- The engine's step changes only the fields of R112. -/
theorem engineStep_frame {s t : State} (h : s.engineStep = .next t) : CompletionFrame s t := by
  obtain ⟨-, rfl⟩ | ⟨-, i, -, hexec⟩ | ⟨-, -, rfl⟩ := engineStep_cases h
  · rfl
  · obtain ⟨hcompletion, -⟩ := commandFrame
    obtain ⟨hframe, -⟩ := hcompletion i s t hexec
    exact hframe
  · rfl

/-- A register write other than CMD's puts the same values in a state that differs in the fields of a completion. -/
theorem CompletionFrame.writeReg {s t s1 : State} {r : Reg} {w : Word} (h : CompletionFrame s t) (hr : r ≠ .cmd)
    (hs1 : s.writeReg r w = .next s1) : t.writeReg r w = .next (t.withHostRegs s1) := by
  rw [h]
  cases r with
  | cmd => exact absurd rfl hr
  | status | ctrl | src | dst | len | result | outLen | errPos =>
    cases hs1
    rfl

/-- Settles O35: the write puts values in the host's registers, which the engine's step neither reads nor changes. -/
theorem operandWritesWhileBusy : Obligations.OperandWritesWhileBusy := by
  intro s r w _ hr
  have hcmd : r ≠ .cmd := by
    rintro rfl
    simp at hr
  obtain ⟨s1, hs1⟩ := writeReg_next s r w
  obtain ⟨hregs, -⟩ := writeReg_frame hcmd hs1
  obtain ⟨t, ht⟩ := engineStep_next s
  refine ⟨s1, t, t.withHostRegs s1, hs1, ht, ?_, (engineStep_frame ht).writeReg hcmd hs1, ?_⟩
  · have hs1' : s1 = s.withHostRegs s1 := hregs
    rw [hs1']
    exact engineStep_withHostRegs ht s1
  · rintro rfl
    cases hs1
    rfl

/-! ### The wait loop -/

/-- ACK is never the command in flight (R104). -/
theorem State.Inv.latched_ne_ack {s : State} (h : s.Inv) (hb : s.status.busy = true) : s.latched ≠ .ok .ack := by
  intro hlatched
  refine h.busyWord hb (eq_zero_of_decode_ack ?_)
  rwa [decode, ← h.opLatched]

/-- The engine's turn completes the command in flight, illegal or not (R109 to R111). -/
theorem State.Inv.engineStep_completes {s t : State} (h : s.Inv) (hb : s.status.busy = true)
    (ht : s.engineStep = .next t) : t.status.busy = false ∧ t.status.done = true := by
  obtain ⟨hidle, -⟩ | ⟨-, i, hlatched, hexec⟩ | ⟨-, -, rfl⟩ := engineStep_cases ht
  · simp [hb] at hidle
  · have hi : i ≠ .ack := by
      rintro rfl
      exact h.latched_ne_ack hb hlatched
    obtain hok | ⟨e, -, herr⟩ := exec_status hi hexec
    · rw [hok]
      exact ⟨rfl, rfl⟩
    · rw [herr]
      exact ⟨rfl, rfl⟩
  · exact ⟨rfl, rfl⟩

/-- Bit 0 of the STATUS word is BUSY (R24). -/
theorem getLsbD_zero_readStatus (s : State) : (s.readReg .status).getLsbD 0 = s.status.busy :=
  (getLsbD_statusWord s.status (by decide)).trans (if_pos rfl)

/-- While BUSY, a poll leaves the host in its loop (R83). -/
theorem waitStep_of_busy {s : State} (hb : s.status.busy = true) : s.waitStep = s.see (s.readReg .status) :=
  if_pos ((getLsbD_zero_readStatus s).trans hb)

/-- A poll that finds BUSY 0 leaves the loop (R83). -/
theorem waitStep_of_idle {s : State} (hb : s.status.busy = false) :
    s.waitStep = (s.see (s.readReg .status)).popOp :=
  if_neg (Bool.eq_false_iff.mp ((getLsbD_zero_readStatus s).trans hb))

theorem hostStep_of_wait {s : State} {rest : List HostOp} (h : s.prog = .wait :: rest) :
    s.hostStep = .next s.waitStep := by
  rw [State.hostStep, h]

/-- The engine moves in its turn, and with no turn set while it is enabled (log entry 5). -/
theorem step_of_engine_turn {s : State} (ht : s.turns.head? = some .engine ∨ s.turns = [])
    (hb : s.status.busy = true) : step s = s.popTurn.engineStep := by
  obtain hengine | hnone := ht
  · exact step_of_turn hengine
  · exact step_of_no_turn_busy hnone hb

/-- The host moves in its turn, and with no turn set while the engine has nothing to do (log entry 5). -/
theorem step_of_host_turn {s : State} (ht : s.turns.head? = some .host ∨ s.turns = [])
    (hb : s.status.busy = false) : step s = s.popTurn.hostStep := by
  obtain hhost | hnone := ht
  · exact step_of_turn hhost
  · exact step_of_no_turn_idle hnone hb

theorem run_succ_of_step {s t : State} (h : step s = .next t) (k : Nat) :
    Host.Core.run core (k + 1) s = Host.Core.run core k t := by
  have hcore : core.step s = .next t := h
  simp only [Host.Core.run, hcore]

/-- The host has left its loop, with the command complete and these operations and turns to come. -/
def LeftWait (rest : List HostOp) (ts : List Turn) (t : State) : Prop :=
  t.prog = rest ∧ t.turns = ts ∧ t.status.busy = false ∧ t.status.done = true

/-- The engine's turn and one poll after it end the loop (R83, R111). -/
theorem run_two_leaves_wait {s : State} {rest : List HostOp} (h : s.Inv) (hb : s.status.busy = true)
    (hprog : s.prog = .wait :: rest) (hengine : s.turns.head? = some .engine ∨ s.turns = [])
    (hhost : s.turns.tail.head? = some .host ∨ s.turns.tail = []) :
    ∃ t, Host.Core.run core 2 s = .next t ∧ LeftWait rest s.turns.tail.tail t := by
  obtain ⟨t, ht⟩ := engineStep_next s.popTurn
  obtain ⟨hidle, hdone⟩ := h.popTurn.engineStep_completes hb ht
  have hframe : CompletionFrame s.popTurn t := engineStep_frame ht
  have htprog : t.prog = .wait :: rest := by rw [hframe]; exact hprog
  have htturns : t.turns = s.turns.tail := by rw [hframe]; rfl
  have hpoll : step t = .next t.popTurn.waitStep :=
    (step_of_host_turn (htturns ▸ hhost) hidle).trans (hostStep_of_wait (s := t.popTurn) htprog)
  refine ⟨t.popTurn.waitStep, ?_, ?_⟩
  · rw [run_succ_of_step ((step_of_engine_turn hengine hb).trans ht), run_succ_of_step hpoll]
    rfl
  · rw [waitStep_of_idle (s := t.popTurn) hidle]
    exact ⟨by simp [htprog], by simp [htturns], hidle, hdone⟩

/-- However often the host polls first, the engine's turn and one poll after it end the loop (R240). -/
theorem run_leaves_wait {n : Nat} {s : State} {rest : List HostOp} {ts : List Turn} (h : s.Inv)
    (hb : s.status.busy = true) (hprog : s.prog = .wait :: rest)
    (hturns : s.turns = List.replicate n .host ++ .engine :: .host :: ts) :
    ∃ t, Host.Core.run core (n + 2) s = .next t ∧ LeftWait rest ts t := by
  induction n generalizing s with
  | zero =>
    rw [List.replicate_zero, List.nil_append] at hturns
    have hend := run_two_leaves_wait h hb hprog (.inl (by rw [hturns]; rfl)) (.inl (by rw [hturns]; rfl))
    rwa [hturns] at hend
  | succ n ih =>
    rw [List.replicate_succ, List.cons_append] at hturns
    have hpoll : step s = .next s.popTurn.waitStep :=
      (step_of_turn (tn := .host) (by rw [hturns]; rfl)).trans (hostStep_of_wait (s := s.popTurn) hprog)
    have hstay : s.popTurn.waitStep = s.popTurn.see (s.readReg .status) := waitStep_of_busy (s := s.popTurn) hb
    obtain ⟨t, ht, hleft⟩ := ih h.popTurn.waitStep (hstay ▸ hb) (hstay ▸ hprog) (by rw [hstay]; simp [hturns])
    exact ⟨t, (run_succ_of_step hpoll (n + 2)).trans ht, hleft⟩

/-- Settles O36: by the polls before the engine's turn, of which there are none when no turn is set. -/
theorem waitLoopEnds : Obligations.WaitLoopEnds := by
  refine ⟨fun n s rest ts => run_leaves_wait, fun s rest h hb hprog hturns => ?_⟩
  obtain ⟨t, ht, hrest, -, hend⟩ := run_two_leaves_wait h hb hprog (.inr hturns) (.inr (by rw [hturns]; rfl))
  exact ⟨t, ht, hrest, hend⟩

end Sys2Proof.Machine
end
